-- ==== Sys2Proof/Word.lean ====
section
/-! DEFINITION. The words of the engine: their widths, as rule R7 (ADDR_W, LEN_W) and rule R55 of the spec give them. -/

namespace Sys2Proof

/-- A byte: caller memory, the FIFOs, MasterStatus and the source vector (R55, R25, R79). -/
abbrev Byte := BitVec 8

/-- A 32-bit host register word or command word (R32, R70). -/
abbrev Word := BitVec 32

/-- A caller-memory address, ADDR_W = 32 bits (R7). -/
abbrev Addr := BitVec 32

/-- A transfer length or index, LEN_W = 16 bits (R7). -/
abbrev Len := BitVec 16

/-- A 7-bit I2C slave address (R8). -/
abbrev SlaveAddr := BitVec 7

/-- A master command, a set of five actions with one bit each (R78). -/
abbrev CmdSet := BitVec 5

end Sys2Proof
end

