-- ==== Sys2Proof/Config.lean ====
section
/-! DEFINITION. What an implementation fixes (the OPEN parameters of rule R7) and the free values (93_implementation_defined.md U3, U6).
Every one is a constant without a body, so a claim holds whatever its value is. -/

namespace Sys2Proof

/-- The two values rule R7 allows for STOP_WHEN_IDLE_RESULT (decision D14). -/
inductive StopIdleResult where
  | ok
  | notReady
  deriving DecidableEq, Repr, Inhabited

/-- The bound on the manual API's spin-waits: rule R7 gives `Unbounded` as its only value. -/
inductive WaitPolicy where
  | unbounded
  deriving DecidableEq, Repr, Inhabited

/-- WAIT_POLICY (R7, R243). A wait is left by its resolve step and in no other way. -/
def Config.waitPolicy : WaitPolicy := .unbounded

/-- FIFO_DEPTH - 1, OPEN (R7, U13; log 9). -/
opaque Config.fifoDepthLessOne : Nat

/-- FIFO_DEPTH, an integer of at least 1 (R7, decision D9). -/
def Config.fifoDepth : Nat := Config.fifoDepthLessOne + 1

/-- T_LOW_US, the low period of the bit-banged pulse in microseconds, OPEN (R7, U14; log 9). -/
opaque Config.tLowUs : Nat

/-- T_HIGH_US, the high period of the bit-banged pulse in microseconds, OPEN (R7, U14; log 9). -/
opaque Config.tHighUs : Nat

/-- STOP_WHEN_IDLE_RESULT, OPEN (R7, U12; log 9). -/
opaque Config.stopWhenIdleResult : StopIdleResult

/-- The byte an empty RX FIFO gives, any value (U3; log 8). The argument is the counter of free values. -/
opaque Config.freeRxByte : Nat → Byte

/-- `scb.pend` after a soft reset, any value (U6; log 7). -/
opaque Config.pendAfterSoftReset : Nat → Byte

/-- The bytes of `scb.rx` after a soft reset, any value (U6; log 7); the model keeps at most FIFO_DEPTH of them (R36). -/
opaque Config.rxAfterSoftReset : Nat → List Byte

/-- `scb.tx` after a soft reset, any value (U6; log 7). -/
opaque Config.txAfterSoftReset : Nat → List Byte

/-- `scb.busy` after a soft reset, any value (U6; log 7). -/
opaque Config.busyAfterSoftReset : Nat → Bool

/-- `scb.en` after a soft reset, any value (U6; log 7). -/
opaque Config.enAfterSoftReset : Nat → Bool

/-- The level `Line.read()` gives, any value (R172; log 11). -/
opaque Config.freeLineLevel : Nat → Bool

/-- The status `Line.clearInterrupt()` gives, any value; the spec gives it no width (R172; log 11). -/
opaque Config.freeLineStatus : Nat → Nat

end Sys2Proof
end

