-- ==== Sys2Proof/Syntax.lean ====
section
/-! DEFINITION. The host commands as syntax: one constructor per row of spec/opcode_table.json, with the operands of rules R71 to R73. -/

namespace Sys2Proof

/-- Transfer direction: field R of START and RESTART, and `st.dir` (R71, R23). -/
inductive Dir where
  | write
  | read
  deriving DecidableEq, Repr, Inhabited

/-- Ack policy of RDBYTE: field K, 1 ACK, 0 NACK (R71). -/
inductive AckPolicy where
  | nack
  | ack
  deriving DecidableEq, Repr, Inhabited

/-- Start policy: field S, 0 generate-Start, 1 generate-ReStart (R71, R28). -/
inductive StartPolicy where
  | start
  | restart
  deriving DecidableEq, Repr, Inhabited

/-- Completion policy: field H, 0 complete-with-Stop, 1 halt-before-Stop (R71, R28). -/
inductive ComplPolicy where
  | stop
  | halt
  deriving DecidableEq, Repr, Inhabited

/-- The 14 host commands (R73). -/
inductive Instr where
  /-- `START a7, r` (R95) -/
  | start (a : SlaveAddr) (r : Dir)
  /-- `RESTART a7, r` (R96) -/
  | restart (a : SlaveAddr) (r : Dir)
  /-- `STOP` (R97) -/
  | stop
  /-- `WRBYTE d8` (R99) -/
  | wrbyte (d : Byte)
  /-- `RDBYTE k` (R101) -/
  | rdbyte (k : AckPolicy)
  /-- `QWRITE a7, s, h` (R133) -/
  | qwrite (a : SlaveAddr) (p : StartPolicy) (h : ComplPolicy)
  /-- `QREAD a7, s, h` (R134) -/
  | qread (a : SlaveAddr) (p : StartPolicy) (h : ComplPolicy)
  /-- `GETWCNT` (R180) -/
  | getwcnt
  /-- `GETRCNT` (R181) -/
  | getrcnt
  /-- `CLRWBUF` (R182) -/
  | clrwbuf
  /-- `CLRRBUF` (R183) -/
  | clrrbuf
  /-- `GETSTAT` (R184) -/
  | getstat
  /-- `CLRSTAT` (R185) -/
  | clrstat
  /-- `RSTWA` (R170) -/
  | rstwa
  deriving DecidableEq, Repr

end Sys2Proof
end

