-- ==== Sys2Proof/WellFormed.lean ====
section
/-! DEFINITION. Well-formedness: of an instruction (its operands lie in their fields), and of a command word (rules R71, R73, R74:
the opcode is defined, the reserved fields are 0, and so is every field its opcode does not use). -/

namespace Sys2Proof

/-- Every operand lies in its field (R71). The operand types already say so, so there is no ill-formed instruction. -/
def Instr.wellFormed : Instr → Bool
  | .start a _ => a.toNat < 128
  | .restart a _ => a.toNat < 128
  | .stop => true
  | .wrbyte d => d.toNat < 256
  | .rdbyte _ => true
  | .qwrite a _ _ => a.toNat < 128
  | .qread a _ _ => a.toNat < 128
  | .getwcnt => true
  | .getrcnt => true
  | .clrwbuf => true
  | .clrrbuf => true
  | .getstat => true
  | .clrstat => true
  | .rstwa => true

/-- The fields of a command word that only some opcodes use (R71). -/
inductive CmdField where
  | D | H | S | K | R | A
  deriving DecidableEq, Repr

/-- All of them. -/
def CmdField.all : List CmdField := [.D, .H, .S, .K, .R, .A]

/-- A field's high and low bit (R71). -/
def CmdField.bits : CmdField → Nat × Nat
  | .D => (23, 16)
  | .H => (14, 14)
  | .S => (13, 13)
  | .K => (12, 12)
  | .R => (11, 11)
  | .A => (10, 4)

/-- Bits `hi` down to `lo` of a word, as a number (R10). -/
def bitsOf (w : Word) (hi lo : Nat) : Nat := (w.toNat >>> lo) % 2 ^ (hi - lo + 1)

/-- The "fields used" column of rule R73's table; none for the reserved opcodes. -/
def fieldsUsed (op : Nat) : Option (List CmdField) :=
  match op with
  | 0x1 => some [.A, .R]
  | 0x2 => some [.A, .R]
  | 0x3 => some []
  | 0x4 => some [.D]
  | 0x5 => some [.K]
  | 0x6 => some [.A, .S, .H]
  | 0x7 => some [.A, .S, .H]
  | 0x8 => some []
  | 0x9 => some []
  | 0xA => some []
  | 0xB => some []
  | 0xC => some []
  | 0xD => some []
  | 0xE => some []
  | _ => none

/-- The word spells a command (R74): a defined opcode, reserved bits 31:24 and 15 zero, unused fields zero. -/
def commandWordWellFormed (w : Word) : Bool :=
  match fieldsUsed (bitsOf w 3 0) with
  | none => false
  | some used =>
      bitsOf w 31 24 == 0 && bitsOf w 15 15 == 0 &&
        CmdField.all.all fun f => used.contains f || bitsOf w f.bits.1 f.bits.2 == 0

end Sys2Proof
end

