-- ==== Sys2Proof/Decode.lean ====
section
/-! DEFINITION. Decoding a command word (rules R71, R73, R75), total on every word and rejecting by name, and the encoder beside it. -/

namespace Sys2Proof

/-- Why a word spells no command (R74, R75). -/
inductive BadWord where
  /-- the opcode is 0x0 or 0xF -/
  | reservedOpcode
  /-- the opcode is defined and a reserved or unused field is not 0 -/
  | nonzeroUnusedBits
  deriving DecidableEq, Repr

/-- The defined opcodes (R73). -/
inductive Opcode where
  | start | restart | stop | wrbyte | rdbyte | qwrite | qread
  | getwcnt | getrcnt | clrwbuf | clrrbuf | getstat | clrstat | rstwa
  deriving DecidableEq, Repr

/-- The number of an opcode, field OP (R73). -/
def opcodeNumber : Opcode → BitVec 4
  | .start => 0x1
  | .restart => 0x2
  | .stop => 0x3
  | .wrbyte => 0x4
  | .rdbyte => 0x5
  | .qwrite => 0x6
  | .qread => 0x7
  | .getwcnt => 0x8
  | .getrcnt => 0x9
  | .clrwbuf => 0xA
  | .clrrbuf => 0xB
  | .getstat => 0xC
  | .clrstat => 0xD
  | .rstwa => 0xE

/-- The opcode a number stands for; none for the reserved 0x0 and 0xF (R73, R74). -/
def opcodeOf (op : BitVec 4) : Option Opcode :=
  match op.toNat with
  | 0x1 => some .start
  | 0x2 => some .restart
  | 0x3 => some .stop
  | 0x4 => some .wrbyte
  | 0x5 => some .rdbyte
  | 0x6 => some .qwrite
  | 0x7 => some .qread
  | 0x8 => some .getwcnt
  | 0x9 => some .getrcnt
  | 0xA => some .clrwbuf
  | 0xB => some .clrrbuf
  | 0xC => some .getstat
  | 0xD => some .clrstat
  | 0xE => some .rstwa
  | _ => none

/-- The `mask` column of opcode_table.json. -/
def opcodeMask : Opcode → Word
  | .start => 0xFFFFF00F
  | .restart => 0xFFFFF00F
  | .stop => 0xFFFFFFFF
  | .wrbyte => 0xFF00FFFF
  | .rdbyte => 0xFFFFEFFF
  | .qwrite => 0xFFFF980F
  | .qread => 0xFFFF980F
  | .getwcnt => 0xFFFFFFFF
  | .getrcnt => 0xFFFFFFFF
  | .clrwbuf => 0xFFFFFFFF
  | .clrrbuf => 0xFFFFFFFF
  | .getstat => 0xFFFFFFFF
  | .clrstat => 0xFFFFFFFF
  | .rstwa => 0xFFFFFFFF

/-- The `match` column of opcode_table.json. -/
def opcodeMatch : Opcode → Word
  | .start => 0x00000001
  | .restart => 0x00000002
  | .stop => 0x00000003
  | .wrbyte => 0x00000004
  | .rdbyte => 0x00000005
  | .qwrite => 0x00000006
  | .qread => 0x00000007
  | .getwcnt => 0x00000008
  | .getrcnt => 0x00000009
  | .clrwbuf => 0x0000000A
  | .clrrbuf => 0x0000000B
  | .getstat => 0x0000000C
  | .clrstat => 0x0000000D
  | .rstwa => 0x0000000E

/-- Field R: 1 read, 0 write (R71). -/
def dirOfBit (b : Bool) : Dir := if b then .read else .write
/-- Field K: 1 ACK, 0 NACK (R71). -/
def ackOfBit (b : Bool) : AckPolicy := if b then .ack else .nack
/-- Field S: 1 generate-ReStart, 0 generate-Start (R71). -/
def startOfBit (b : Bool) : StartPolicy := if b then .restart else .start
/-- Field H: 1 halt-before-Stop, 0 complete-with-Stop (R71). -/
def complOfBit (b : Bool) : ComplPolicy := if b then .halt else .stop

/-- `st.dir` and field R as a bit: 1 read (R23, R71). -/
def Dir.bit : Dir → BitVec 1
  | .write => 0
  | .read => 1
/-- Field K as a bit (R71). -/
def AckPolicy.bit : AckPolicy → BitVec 1
  | .nack => 0
  | .ack => 1
/-- Field S as a bit (R71). -/
def StartPolicy.bit : StartPolicy → BitVec 1
  | .start => 0
  | .restart => 1
/-- Field H as a bit (R71). -/
def ComplPolicy.bit : ComplPolicy → BitVec 1
  | .stop => 0
  | .halt => 1

/-- Field OP, bits 3:0 (R71). -/
def fieldOP (w : Word) : BitVec 4 := w.extractLsb' 0 4
/-- Field A, bits 10:4 (R71). -/
def fieldA (w : Word) : SlaveAddr := w.extractLsb' 4 7
/-- Field R, bit 11 (R71). -/
def fieldR (w : Word) : Dir := dirOfBit (w.getLsbD 11)
/-- Field K, bit 12 (R71). -/
def fieldK (w : Word) : AckPolicy := ackOfBit (w.getLsbD 12)
/-- Field S, bit 13 (R71). -/
def fieldS (w : Word) : StartPolicy := startOfBit (w.getLsbD 13)
/-- Field H, bit 14 (R71). -/
def fieldH (w : Word) : ComplPolicy := complOfBit (w.getLsbD 14)
/-- Field D, bits 23:16 (R71). -/
def fieldD (w : Word) : Byte := w.extractLsb' 16 8

/-- The command of an opcode, its operands read from their fields (R72, R75). -/
def readFields (op : Opcode) (w : Word) : Instr :=
  match op with
  | .start => .start (fieldA w) (fieldR w)
  | .restart => .restart (fieldA w) (fieldR w)
  | .stop => .stop
  | .wrbyte => .wrbyte (fieldD w)
  | .rdbyte => .rdbyte (fieldK w)
  | .qwrite => .qwrite (fieldA w) (fieldS w) (fieldH w)
  | .qread => .qread (fieldA w) (fieldS w) (fieldH w)
  | .getwcnt => .getwcnt
  | .getrcnt => .getrcnt
  | .clrwbuf => .clrwbuf
  | .clrrbuf => .clrrbuf
  | .getstat => .getstat
  | .clrstat => .clrstat
  | .rstwa => .rstwa

/-- The decoding procedure of rule R75. -/
def decode (w : Word) : Except BadWord Instr :=
  match opcodeOf (fieldOP w) with
  | none => .error .reservedOpcode
  | some op =>
      if w &&& opcodeMask op = opcodeMatch op then .ok (readFields op w)
      else .error .nonzeroUnusedBits

/-- The word as the host's table numbers its bits. A command is one 32-bit word (R70), so a longer one is none. -/
def decodeTableWord (nbits w : Nat) : Option Instr :=
  let v := w % 2 ^ nbits
  if v < 2 ^ 32 then
    match decode (BitVec.ofNat 32 v) with
    | .ok i => some i
    | .error _ => none
  else none

/-- A field's value at its place in a word, its least significant bit at bit `lo` (R10, R71). -/
def place {n : Nat} (lo : Nat) (v : BitVec n) : Word := v.setWidth 32 <<< lo

/-- A CMD32 word from its fields, each at its bits of rule R71; bits 31:24 and 15 are 0. -/
def cmd32 (d : Byte) (h s k r : BitVec 1) (a : SlaveAddr) (op : BitVec 4) : Word :=
  place 16 d ||| place 14 h ||| place 13 s ||| place 12 k ||| place 11 r ||| place 4 a ||| place 0 op

/-- The word of a command (R71, R73): every field it does not use is 0. -/
def encode : Instr → Word
  | .start a r => cmd32 0 0 0 0 r.bit a 0x1
  | .restart a r => cmd32 0 0 0 0 r.bit a 0x2
  | .stop => cmd32 0 0 0 0 0 0 0x3
  | .wrbyte d => cmd32 d 0 0 0 0 0 0x4
  | .rdbyte k => cmd32 0 0 0 k.bit 0 0 0x5
  | .qwrite a p h => cmd32 0 h.bit p.bit 0 0 a 0x6
  | .qread a p h => cmd32 0 h.bit p.bit 0 0 a 0x7
  | .getwcnt => cmd32 0 0 0 0 0 0 0x8
  | .getrcnt => cmd32 0 0 0 0 0 0 0x9
  | .clrwbuf => cmd32 0 0 0 0 0 0 0xA
  | .clrrbuf => cmd32 0 0 0 0 0 0 0xB
  | .getstat => cmd32 0 0 0 0 0 0 0xC
  | .clrstat => cmd32 0 0 0 0 0 0 0xD
  | .rstwa => cmd32 0 0 0 0 0 0 0xE

end Sys2Proof
end

