-- ==== Sys2Proof/Machine/State.lean ====
section
/-! DEFINITION. The state of one engine instance, all of it plain data (10_state.md; INVENTORY.md, State), the reasons a step can stop, and reset. -/

namespace Sys2Proof.Machine

/-- ProtocolState (R22). The reserved values 6 and 7 have no constructor (U2; log 13). -/
inductive ProtocolState where
  | idle
  | addrWr
  | addrRd
  | dataWr
  | dataRd
  | halted
  deriving DecidableEq, Repr, Inhabited

/-- Why the engine is HALTED (R24). The reserved values 6 and 7 have no constructor (U2; log 13). -/
inductive HaltCause where
  | none
  | wrAck
  | addrNak
  | dataNak
  | rdNak
  | bufHalt
  deriving DecidableEq, Repr, Inhabited

/-- Which descriptor the interrupt path is advancing (R30). The reserved value 3 has no constructor (U2; log 13). -/
inductive Armed where
  | none
  | write
  | read
  deriving DecidableEq, Repr, Inhabited

/-- The armed data interrupt source (R30). -/
inductive DataSource where
  | txUnderflow
  | rxNotEmpty
  | rxFull
  deriving DecidableEq, Repr, Inhabited

/-- The foreground operation register: the wait a manual operation is in (R31). -/
inductive Wait where
  | none
  | addr
  | wr
  | rd (k : AckPolicy)
  | stop
  deriving DecidableEq, Repr, Inhabited

/-- MasterControl (R28). Its value 0 is ⟨generate-Start, complete-with-Stop⟩. -/
structure MasterControl where
  start : StartPolicy
  compl : ComplPolicy
  deriving DecidableEq, Repr, Inhabited

/-- MasterControl's value 0 (R28). -/
def MasterControl.zero : MasterControl := ⟨.start, .stop⟩

/-- A TransferDescriptor (R29). -/
structure Descriptor where
  buf : Addr
  len : Len
  idx : Len
  deriving DecidableEq, Repr, Inhabited

/-- The engine's internal fields, the spec's `st` (R11, R22 to R31). -/
structure Engine where
  state : ProtocolState
  dir : Dir
  haltCause : HaltCause
  status : Byte
  ctl : MasterControl
  wr : Descriptor
  rd : Descriptor
  armed : Armed
  dsrc : DataSource
  stopPending : Bool
  op : Wait
  deriving DecidableEq, Repr, Inhabited

/-- Result codes (R76). The reserved codes 7 to 15 have no constructor (U18; log 13). -/
inductive ResultCode where
  | ok
  | notReady
  | busBusy
  | addressNacked
  | dataNacked
  | arbitrationLost
  | busError
  deriving DecidableEq, Repr, Inhabited

/-- What RSP stores (R33). BUSY is no field of it: it is computed from `st.op` (R31; log 12). -/
structure Response where
  code : ResultCode
  data : Byte
  value : BitVec 16
  deriving DecidableEq, Repr, Inhabited

/-- The SCB environment's state (R36). -/
structure Scb where
  pend : Byte
  rx : List Byte
  tx : List Byte
  busy : Bool
  en : Bool
  deriving DecidableEq, Repr, Inhabited

/-- The two drive-mode values passed to `Line.setDriveMode`, distinct (R7; log 10). -/
inductive DriveMode where
  | gpio
  | periph
  deriving DecidableEq, Repr, Inhabited

/-- The digital line on the bus clock: the level and the drive mode last written (R170; log 11). -/
structure Line where
  level : Bool
  mode : DriveMode
  deriving DecidableEq, Repr, Inhabited

/-- A range of addresses at which the platform's memory refuses a request (R58; log 4). -/
structure Hole where
  base : Nat
  size : Nat
  deriving DecidableEq, Repr, Inhabited

/-- Caller memory (R50, R58): the bytes that differ from what an unlisted address reads as, by rising address, and the holes. -/
structure Memory where
  cells : List Host.Cell
  holes : List Hole
  deriving DecidableEq, Repr, Inhabited

/-- One primitive call on a downward interface with its argument and its result (R12, R37). -/
inductive Action where
  | scbTx (b : Byte)
  | scbRx (b : Byte)
  | scbCmd (c : CmdSet)
  | scbClear (m : Byte)
  | scbPending (v : Byte)
  | scbBusBusy (v : Bool)
  | scbEnable (e : Bool)
  | scbSoftReset
  | scbRxLevel (n : Nat)
  | lineWrite (l : Bool)
  | lineRead (l : Bool)
  | lineSetDriveMode (m : DriveMode)
  | lineClearInterrupt (status : Nat)
  | csAcquire
  | csRelease
  | delay (us : Nat)
  | memRead (a : Addr) (v : Byte)
  | memWrite (a : Addr) (v : Byte)
  deriving DecidableEq, Repr

/-- A move of the SCB environment (R36; lowering a source: R210, log 17). -/
inductive EnvMove where
  /-- set the sources of a mask -/
  | raise (m : Byte)
  /-- the SCB itself clears the sources of a mask -/
  | lower (m : Byte)
  /-- append a byte to the RX FIFO -/
  | rxPush (b : Byte)
  /-- remove the head of the TX FIFO -/
  | txPop
  /-- change the bus-busy bit -/
  | setBusy (v : Bool)
  deriving DecidableEq, Repr

/-- One atomic step of one agent, as the schedule names it (R36, R38; log 1). -/
inductive Move where
  /-- the host writes `v` at a byte offset of the register space, `width` bytes wide (R32, R34, R54) -/
  | hostWrite (offset width : Nat) (v : Word)
  /-- the host reads at a byte offset of the register space, `width` bytes wide (R32, R54) -/
  | hostRead (offset width : Nat)
  /-- the caller changes a byte of its own memory (U11; log 16) -/
  | callerStore (a : Addr) (v : Byte)
  /-- the resolve step of the foreground's wait (R13) -/
  | resolve
  /-- a step of the interrupt path (R135) -/
  | interrupt
  /-- a step of the SCB environment (R36) -/
  | env (e : EnvMove)
  /-- driver initialisation (R240; log 21) -/
  | driverInit
  deriving DecidableEq, Repr

/-- The machine: one engine instance, its host registers and its environment. -/
structure State where
  /-- the engine's internal fields (R22 to R31) -/
  st : Engine
  /-- ARG_BUF (R32) -/
  argBuf : Addr
  /-- ARG_LEN, its LEN_W used bits (R32) -/
  argLen : Len
  /-- RSP (R33) -/
  rsp : Response
  /-- the SCB environment (R36) -/
  scb : Scb
  /-- the digital line (R170) -/
  line : Line
  /-- caller memory (R50) -/
  mem : Memory
  /-- `st.trace` (R37), oldest first -/
  trace : List Action
  /-- `st.soft_resets` (R37) -/
  softResets : Nat
  /-- the model's own: the word the last host read returned (log 19) -/
  readData : Word
  /-- the model's own: the counter that picks the next free value (log 8) -/
  freeCount : Nat
  /-- the model's own: the schedule of moves still to come, the next one first (log 1) -/
  moves : List Move
  deriving DecidableEq, Repr

/-- The agents that can be without a step (R36). -/
inductive Agent where
  | foreground
  | interruptPath
  | environment
  deriving DecidableEq, Repr

/-- Why the machine stops with a fault. -/
inductive Fault where
  /-- The schedule names an agent that has no step: a resolve step whose wait is not over or when there is no wait (U4, R13),
  an interrupt step while the path is not enabled (R135), an environment move the FIFO does not allow (R36). Safe: the model
  stops where the hardware's agent stays where it is (log 3). -/
  | noStep (who : Agent)
  /-- The platform's memory does not admit the access at this address (R58, U8): the agent is stuck. Safe (log 4). -/
  | memoryRefused (a : Addr)
  deriving DecidableEq, Repr

/-- Why the machine gives a move no meaning. -/
inductive Refusal where
  /-- An instruction without a meaning in this model, by its mnemonic: raised by an arm of exec only. Safe. -/
  | notModelled (mnemonic : String)
  /-- A word that spells no command (R74, U1): raised by a write to CMD. Safe (log 14). -/
  | badCommandWord (why : BadWord) (w : Word)
  /-- A write to CMD while RSP.BUSY = 1 (R34, U10): no move of the host. Safe (log 14). -/
  | cmdWhileBusy (w : Word)
  /-- A host access that is no aligned 32-bit word of one of the four registers (R54, U9). Safe (log 14). -/
  | badHostAccess (offset width : Nat)
  deriving DecidableEq, Repr

/-- The engine's fields after reset (R39). -/
def Engine.reset : Engine where
  state := .idle
  dir := .write
  haltCause := .none
  status := 0x00
  ctl := MasterControl.zero
  wr := ⟨0, 0, 0⟩
  rd := ⟨0, 0, 0⟩
  armed := .none
  dsrc := .txUnderflow
  stopPending := false
  op := .none

/-- The machine right after reset (R39, R240). The environment's values are the model's: the SCB (log 6), the line (log 11),
memory (log 4, log 5); so are the model's own fields (log 1, log 8, log 19). -/
def State.reset : State where
  st := Engine.reset
  argBuf := 0
  argLen := 0
  rsp := ⟨.ok, 0, 0⟩
  scb := ⟨0x00, [], [], false, true⟩
  line := ⟨true, .periph⟩
  mem := ⟨[], []⟩
  trace := []
  softResets := 0
  readData := 0
  freeCount := 0
  moves := []

end Sys2Proof.Machine
end

