-- ==== Sys2Proof/Machine/Flags.lean ====
section
/-! DEFINITION. The MasterStatus flags (10_state.md R25 to R27) and the SCB interrupt sources with their masks and priority lists
(30_encoding.md R79, 00_scope.md R14). -/

namespace Sys2Proof.Machine

/-- MasterStatus bit 0 (R25). -/
def flagRdCmplt : Byte := 0x01
/-- MasterStatus bit 1 (R25). -/
def flagWrCmplt : Byte := 0x02
/-- MasterStatus bit 2, never stored (R25, R26). -/
def flagXferInp : Byte := 0x04
/-- MasterStatus bit 3 (R25). -/
def flagXferHalt : Byte := 0x08
/-- MasterStatus bit 4 (R25). -/
def flagErrAddrNak : Byte := 0x10
/-- MasterStatus bit 5 (R25). -/
def flagErrDataNak : Byte := 0x20
/-- MasterStatus bit 6 (R25). -/
def flagErrArbLost : Byte := 0x40
/-- MasterStatus bit 7 (R25). -/
def flagErrBus : Byte := 0x80

/-- Setting a flag is an OR (R25). -/
def setFlags (f w : Byte) : Byte := w ||| f
/-- Clearing a flag is an AND-NOT (R25). -/
def clearFlags (f w : Byte) : Byte := w &&& ~~~f

/-- The completion flag of the armed descriptor: `st.armed = WRITE ? WR_CMPLT : RD_CMPLT` (R142, R143). -/
def completionFlag : Armed → Byte
  | .write => flagWrCmplt
  | .none => flagRdCmplt
  | .read => flagRdCmplt

/-- The status word getStatus returns, XFER_INP computed on read (R26, R184). -/
def liveStatus (e : Engine) : Byte :=
  e.status ||| (if e.state ≠ .idle then flagXferInp else 0x00)

/-- The SCB's eight interrupt sources (R79). -/
inductive Source where
  | mAck
  | mNack
  | mArbLost
  | mBusErr
  | mStop
  | rxNotEmpty
  | rxFull
  | txUnderflow
  deriving DecidableEq, Repr

/-- A source's bit in the pending vector (R79). -/
def sourceBit : Source → Nat
  | .mAck => 0
  | .mNack => 1
  | .mArbLost => 2
  | .mBusErr => 3
  | .mStop => 4
  | .rxNotEmpty => 5
  | .rxFull => 6
  | .txUnderflow => 7

/-- The mask of one source. -/
def sourceMask (o : Source) : Byte := 1#8 <<< sourceBit o

/-- MASK_ADDR (R79). -/
def maskAddr : Byte := 0x0F
/-- MASK_RD (R79). -/
def maskRd : Byte := 0x2C
/-- MASK_STOP (R79). -/
def maskStop : Byte := 0x1C
/-- MASK_ALL (R79). -/
def maskAll : Byte := 0xFF

/-- ORDER_ADDR (R14). -/
def orderAddr : List Source := [.mAck, .mNack, .mArbLost, .mBusErr]
/-- ORDER_RD, with the data source a manual read waits for (R14, R102). -/
def orderRd : List Source := [.rxNotEmpty, .mArbLost, .mBusErr]
/-- ORDER_STOP (R14). -/
def orderStop : List Source := [.mStop, .mArbLost, .mBusErr]

/-- `classify(P, order)`: the first source of the list whose bit is set (R14). -/
def classify (p : Byte) : List Source → Option Source
  | [] => none
  | o :: rest => if p.getLsbD (sourceBit o) then some o else classify p rest

/-- The source of the armed data source (R30). -/
def dataSource : DataSource → Source
  | .txUnderflow => .txUnderflow
  | .rxNotEmpty => .rxNotEmpty
  | .rxFull => .rxFull

end Sys2Proof.Machine
end

