-- ==== Sys2Proof/Machine/Memory.lean ====
section
/-! DEFINITION. Caller memory as a list of cells in one canonical form, and its byte port (20_memory.md R50, R51, R58). -/

namespace Sys2Proof.Machine

/-- What an address that no cell lists reads as (log 5). -/
def unlistedByte : Byte := 0x00

/-- The byte the cells give at an address. -/
def cellsRead : List Host.Cell → Nat → Byte
  | [], _ => unlistedByte
  | (b, v) :: rest, a => if a = b then v else cellsRead rest a

/-- A cell in front of a list, left out when it says what an unlisted address reads as. -/
def consCell (a : Nat) (v : Byte) (rest : List Host.Cell) : List Host.Cell :=
  if v = unlistedByte then rest else (a, v) :: rest

/-- The cells after a byte is written at an address. -/
def cellsWrite : List Host.Cell → Nat → Byte → List Host.Cell
  | [], a, v => consCell a v []
  | (b, w) :: rest, a, v =>
      if a < b then consCell a v ((b, w) :: rest)
      else if a = b then consCell a v rest
      else (b, w) :: cellsWrite rest a v

/-- Every cell lies above `lo`, the addresses rise strictly, and no cell says what an unlisted address reads as. -/
def cellsWfFrom : Nat → List Host.Cell → Bool
  | _, [] => true
  | lo, (a, v) :: rest => decide (lo ≤ a) && decide (v ≠ unlistedByte) && cellsWfFrom (a + 1) rest

/-- The platform has no memory at this address (R58; log 4). -/
def Memory.refuses (m : Memory) (a : Nat) : Bool :=
  m.holes.any fun h => decide (h.base ≤ a) && decide (a < h.base + h.size)

/-- The canonical form: strictly rising addresses below 2^32, no cell equal to an unlisted byte, no cell in a hole. -/
def Memory.wf (m : Memory) : Bool :=
  cellsWfFrom 0 m.cells && m.cells.all fun c => decide (c.1 < 2 ^ 32) && !m.refuses c.1

/-- The byte at an address; none where the platform has no memory (R58). -/
def Memory.read (m : Memory) (a : Addr) : Option Byte :=
  if m.refuses a.toNat then none else some (cellsRead m.cells a.toNat)

/-- Memory after a byte is written; none where the platform has no memory (R58). -/
def Memory.write (m : Memory) (a : Addr) (v : Byte) : Option Memory :=
  if m.refuses a.toNat then none else some { m with cells := cellsWrite m.cells a.toNat v }

end Sys2Proof.Machine
end

