-- ==== Sys2Proof/Machine/Operands.lean ====
section
/-! DEFINITION. Operand assembly and the encodings of what a host or the bus can see: the wire byte (30_encoding.md R77), the master
commands (R78), the result codes (R76), the RSP word (10_state.md R33), and the numbers of the internal fields (R22 to R24, R28, R30). -/

namespace Sys2Proof.Machine

/-- The address byte `{A[6:0], rw}`, rw = 1 for read (R77). -/
def wireByte (a : SlaveAddr) (r : Dir) : Byte := a ++ r.bit

/-- The address-phase state of a direction (R95, R132). -/
def addrState : Dir → ProtocolState
  | .write => .addrWr
  | .read => .addrRd

/-- The data-phase state of a direction (R94). -/
def dataState : Dir → ProtocolState
  | .write => .dataWr
  | .read => .dataRd

/-- {START} (R78). -/
def cmdStart : CmdSet := 0x01
/-- {RESTART} (R78). -/
def cmdRestart : CmdSet := 0x02
/-- {STOP} (R78). -/
def cmdStop : CmdSet := 0x04
/-- {ACK} (R78). -/
def cmdAck : CmdSet := 0x08
/-- {NACK} (R78), only ever joined with another. -/
def cmdNack : CmdSet := 0x10

/-- A command joined with {NACK} when a received byte is still unanswered (R91, R92). -/
def withOwedNack (owed : Bool) (c : CmdSet) : CmdSet := if owed then c ||| cmdNack else c

/-- `rd_owed()`: the engine holds a received byte it has not answered (R92). -/
def rdOwed (e : Engine) : Bool :=
  decide (e.dir = .read) &&
    (decide (e.state = .dataRd) || (decide (e.state = .halted) && decide (e.haltCause ≠ .addrNak)))

/-- The address of byte `i` of a buffer, modulo 2^ADDR_W (R51). -/
def bufferAddr (buf : Addr) (i : Len) : Addr := buf + i.setWidth 32

/-- The numbers of the result codes (R76). -/
def resultCodeNumber : ResultCode → BitVec 4
  | .ok => 0
  | .notReady => 1
  | .busBusy => 2
  | .addressNacked => 3
  | .dataNacked => 4
  | .arbitrationLost => 5
  | .busError => 6

/-- The result of STOP in IDLE (R7, R97). -/
def stopIdleCode : StopIdleResult → ResultCode
  | .ok => .ok
  | .notReady => .notReady

/-- RSP.BUSY (R31). -/
def busyBit (s : State) : Bool := decide (s.st.op ≠ .none)

/-- The whole RSP word (R33): VALUE, DATA, BUSY, three reserved zeros, CODE. -/
def rspWord (s : State) : Word :=
  s.rsp.value ++ s.rsp.data ++ BitVec.ofBool (busyBit s) ++ 0#3 ++ resultCodeNumber s.rsp.code

/-- The number of a ProtocolState (R22). -/
def protocolStateNumber : ProtocolState → BitVec 3
  | .idle => 0
  | .addrWr => 1
  | .addrRd => 2
  | .dataWr => 3
  | .dataRd => 4
  | .halted => 5

/-- The number of a halt cause (R24). -/
def haltCauseNumber : HaltCause → BitVec 3
  | .none => 0
  | .wrAck => 1
  | .addrNak => 2
  | .dataNak => 3
  | .rdNak => 4
  | .bufHalt => 5

/-- The number of an arming (R30). -/
def armedNumber : Armed → BitVec 2
  | .none => 0
  | .write => 1
  | .read => 2

/-- MasterControl as its two bits: compl in bit 1, start in bit 0 (R28). -/
def masterControlNumber (c : MasterControl) : BitVec 2 := c.compl.bit ++ c.start.bit

end Sys2Proof.Machine
end

