-- ==== Sys2Proof/Machine/Ops.lean ====
section
/-! DEFINITION. The primitives on the downward interfaces (00_scope.md R12), each appending its entry to the trace, the response register,
and the operations the instruction families share: AddrIssue (40_sequencer.md R91), Complete (41_buffered.md R142) and taking a fault,
FaultRecover (60_exceptions.md R206). There is no return from a fault (R208). -/

namespace Sys2Proof.Machine

/-- Append one entry to `st.trace` (R37). -/
def record (x : Action) (s : State) : State := { s with trace := s.trace ++ [x] }

/-- `ScbTx(b)`: enqueue a byte in the TX FIFO (R12). -/
def scbTx (b : Byte) (s : State) : State :=
  record (.scbTx b) { s with scb := { s.scb with tx := s.scb.tx ++ [b] } }

/-- `ScbRx()`: dequeue a byte of the RX FIFO (R12, R56); an empty FIFO gives a free byte (U3; log 8). -/
def scbRx (s : State) : Byte × State :=
  match s.scb.rx with
  | b :: rest => (b, record (.scbRx b) { s with scb := { s.scb with rx := rest } })
  | [] => (Config.freeRxByte s.freeCount,
      record (.scbRx (Config.freeRxByte s.freeCount)) { s with freeCount := s.freeCount + 1 })

/-- `ScbCmd(c)`: write the master command (R12). What the SCB does with it is the environment's (R36). -/
def scbCmd (c : CmdSet) (s : State) : State := record (.scbCmd c) s

/-- `ScbClear(m)`: `scb.pend <- scb.pend & ~m` and nothing else (R79). -/
def scbClear (m : Byte) (s : State) : State :=
  record (.scbClear m) { s with scb := { s.scb with pend := s.scb.pend &&& ~~~m } }

/-- `ScbPending()`: the read of the source vector, whose value is `scb.pend` (R12). -/
def scbPending (s : State) : State := record (.scbPending s.scb.pend) s

/-- `ScbBusBusy()`: the read of the bus-busy bit, whose value is `scb.busy` (R12). -/
def scbBusBusy (s : State) : State := record (.scbBusBusy s.scb.busy) s

/-- `ScbEnable(e)`: write the enable bit (R12). -/
def scbEnable (e : Bool) (s : State) : State :=
  record (.scbEnable e) { s with scb := { s.scb with en := e } }

/-- `ScbRxLevel()`: the read of the RX FIFO's level, whose value is its length (R12). -/
def scbRxLevel (s : State) : State := record (.scbRxLevel s.scb.rx.length) s

/-- The SCB after a soft reset: any value, the RX FIFO within its depth (U6, R36; log 7). -/
def softResetScb (n : Nat) : Scb where
  pend := Config.pendAfterSoftReset n
  rx := (Config.rxAfterSoftReset n).take Config.fifoDepth
  tx := Config.txAfterSoftReset n
  busy := Config.busyAfterSoftReset n
  en := Config.enAfterSoftReset n

/-- `ScbSoftReset()`: trigger the SCB's software reset and count it (R12, R37). -/
def scbSoftReset (s : State) : State :=
  record .scbSoftReset
    { s with scb := softResetScb s.freeCount, freeCount := s.freeCount + 1, softResets := s.softResets + 1 }

/-- `Line.write(l)` (R12). -/
def lineWrite (l : Bool) (s : State) : State :=
  record (.lineWrite l) { s with line := { s.line with level := l } }

/-- `Line.setDriveMode(m)` (R12). -/
def lineSetDriveMode (m : DriveMode) (s : State) : State :=
  record (.lineSetDriveMode m) { s with line := { s.line with mode := m } }

/-- `Line.read()`: provided and never called (R172; log 11). -/
def lineRead (s : State) : Bool × State :=
  (Config.freeLineLevel s.freeCount,
    record (.lineRead (Config.freeLineLevel s.freeCount)) { s with freeCount := s.freeCount + 1 })

/-- `Line.clearInterrupt()`: provided and never called (R172; log 11). -/
def lineClearInterrupt (s : State) : Nat × State :=
  (Config.freeLineStatus s.freeCount,
    record (.lineClearInterrupt (Config.freeLineStatus s.freeCount)) { s with freeCount := s.freeCount + 1 })

/-- `CS.acquire` (R12). -/
def csAcquire (s : State) : State := record .csAcquire s

/-- `CS.release` (R12). -/
def csRelease (s : State) : State := record .csRelease s

/-- `Delay(us)`: recorded, without time (R12, R171). -/
def delay (us : Nat) (s : State) : State := record (.delay us) s

/-- `MemRead(a, 1)` (R12, R51); stuck where the platform has no memory (R58). -/
def memRead (a : Addr) (s : State) : Except Fault (Byte × State) :=
  match s.mem.read a with
  | none => .error (.memoryRefused a)
  | some v => .ok (v, record (.memRead a v) s)

/-- `MemWrite(a, 1, v)` (R12, R51); stuck where the platform has no memory (R58). -/
def memWrite (a : Addr) (v : Byte) (s : State) : Except Fault State :=
  match s.mem.write a v with
  | none => .error (.memoryRefused a)
  | some m => .ok (record (.memWrite a v) { s with mem := m })

/-- `respond(code, data, value)`: write RSP and clear BUSY (R12, R33; log 12). -/
def respond (code : ResultCode) (data : Byte) (value : BitVec 16) (s : State) : State :=
  { s with rsp := ⟨code, data, value⟩, st := { s.st with op := .none } }

/-- `AddrIssue(a7, r, kind, owed)` (R91): RESTART before the address byte, START after it. -/
def addrIssue (a : SlaveAddr) (r : Dir) (kind : StartPolicy) (owed : Bool) (s : State) : State :=
  match kind with
  | .start => scbCmd (withOwedNack owed cmdStart) (scbTx (wireByte a r) s)
  | .restart => scbTx (wireByte a r) (scbCmd (withOwedNack owed cmdRestart) s)

/-- `Complete()` (R142). -/
def complete (s : State) : State :=
  match s.st.ctl.compl with
  | .stop =>
      let s := scbCmd (withOwedNack (rdOwed s.st) cmdStop) s
      { s with st := { s.st with stopPending := true } }
  | .halt =>
      { s with st := { s.st with
          state := .halted
          haltCause := .bufHalt
          status := setFlags (completionFlag s.st.armed ||| flagXferHalt) s.st.status
          armed := .none } }

/-- The two faults (R206). -/
inductive FaultKind where
  | arb
  | bus
  deriving DecidableEq, Repr

/-- The result code a fault reports to a foreground caller (R206). -/
def faultCode : FaultKind → ResultCode
  | .arb => .arbitrationLost
  | .bus => .busError

/-- The flag a fault on the interrupt path sets (R206). -/
def faultFlag : FaultKind → Byte
  | .arb => flagErrArbLost
  | .bus => flagErrBus

/-- Who entered the fault recovery FSM (R205). -/
inductive FaultEntry where
  | foreground
  | interruptPath
  deriving DecidableEq, Repr

/-- FR_FORCE_IDLE (R206). -/
def forceIdle (s : State) : State :=
  { s with st := { s.st with
      state := .idle
      haltCause := .none
      ctl := MasterControl.zero
      armed := .none
      stopPending := false
      op := .none } }

/-- FR_REPORT (R206): a result code to the foreground caller, a status flag from the interrupt path. -/
def faultReport (kind : FaultKind) (who : FaultEntry) (s : State) : State :=
  match who with
  | .foreground => respond (faultCode kind) 0 0 s
  | .interruptPath => { s with st := { s.st with status := setFlags (faultFlag kind) s.st.status } }

/-- `FaultRecover(kind, m)` (R205, R206): FR_CLEAR, FR_FORCE_IDLE, FR_RESET, FR_REPORT, as one atomic run. -/
def faultRecover (kind : FaultKind) (m : Byte) (who : FaultEntry) (s : State) : State :=
  faultReport kind who (csRelease (scbSoftReset (csAcquire (forceIdle (scbClear m s)))))

/-- The outcome of an operation that a memory access can leave stuck. -/
def outcomeOf (r : Except Fault State) : Host.Outcome State Fault Refusal :=
  match r with
  | .ok s => .next s
  | .error f => .fault f

/-- An agent that has no step (R13, R135, R36; log 3). -/
def noStep (who : Agent) : Host.Outcome State Fault Refusal := .fault (.noStep who)

end Sys2Proof.Machine
end

