-- ==== Sys2Proof/Machine/Accessors.lean ====
section
/-! DEFINITION. The status and buffer accessors (43_accessors.md), accepted in every state (R186). -/

namespace Sys2Proof.Machine

/-- `GETWCNT` (R180). -/
def execGetwcnt (s : State) : Host.Outcome State Fault Refusal := .next (respond .ok 0 s.st.wr.idx s)

/-- `GETRCNT` (R181). -/
def execGetrcnt (s : State) : Host.Outcome State Fault Refusal := .next (respond .ok 0 s.st.rd.idx s)

/-- `CLRWBUF` (R182). -/
def execClrwbuf (s : State) : Host.Outcome State Fault Refusal :=
  .next (respond .ok 0 0
    { s with st := { s.st with
        wr := { s.st.wr with idx := 0 }
        status := clearFlags flagWrCmplt s.st.status } })

/-- `CLRRBUF` (R183). -/
def execClrrbuf (s : State) : Host.Outcome State Fault Refusal :=
  .next (respond .ok 0 0
    { s with st := { s.st with
        rd := { s.st.rd with idx := 0 }
        status := clearFlags flagRdCmplt s.st.status } })

/-- `GETSTAT` (R184). -/
def execGetstat (s : State) : Host.Outcome State Fault Refusal :=
  .next (respond .ok 0 ((liveStatus s.st).setWidth 16) s)

/-- `CLRSTAT` (R185): the stored flags, without XFER_INP (90_conflicts.md C8). -/
def execClrstat (s : State) : Host.Outcome State Fault Refusal :=
  .next (respond .ok 0 (s.st.status.setWidth 16) { s with st := { s.st with status := 0x00 } })

end Sys2Proof.Machine
end

