-- ==== Sys2Proof/Machine/Buffered.lean ====
section
/-! DEFINITION. Buffered transfers (41_buffered.md): QWRITE and QREAD, and the continuation steps of the interrupt path. -/

namespace Sys2Proof.Machine

/-- The outcome of QCheck (R131): a refusal by result code, or go on, resuming from HALTED or not. -/
inductive QCheck where
  | nullBuffer
  | busy
  | illegalState
  | fresh
  | resume
  deriving DecidableEq, Repr

/-- `QCheck()` (R131), in its order: null buffer, state, bus. -/
def qCheck (s : State) : QCheck :=
  if s.argBuf = 0 then .nullBuffer
  else
    match s.st.state with
    | .idle => if s.scb.busy then .busy else .fresh
    | .halted => .resume
    | .addrWr => .illegalState
    | .addrRd => .illegalState
    | .dataWr => .illegalState
    | .dataRd => .illegalState

/-- The descriptor a setup makes (R132): index 0, length and buffer from the host registers. -/
def newDescriptor (s : State) : Descriptor := ⟨s.argBuf, s.argLen, 0⟩

/-- The descriptors after a setup of a direction (R132). -/
def setDescriptor (d : Dir) (x : Descriptor) (e : Engine) : Engine :=
  match d with
  | .write => { e with wr := x }
  | .read => { e with rd := x }

/-- A direction as an arming (R132). -/
def armedOf : Dir → Armed
  | .write => .write
  | .read => .read

/-- `QSetup(desc, d, cflag)` (R132), without its final respond. -/
def qSetup (a : SlaveAddr) (d : Dir) (p : StartPolicy) (h : ComplPolicy) (resume : Bool) (s : State) : State :=
  let owed := rdOwed s.st
  let status := if resume then clearFlags flagXferHalt s.st.status else s.st.status
  let e := setDescriptor d (newDescriptor s) s.st
  let s := { s with st := { e with ctl := ⟨p, h⟩, status := clearFlags (completionFlag (armedOf d)) status } }
  let s := scbClear maskAll s
  let s := { s with st := { s.st with dir := d, haltCause := .none, stopPending := false, state := addrState d } }
  let s := addrIssue a d p owed s
  { s with st := { s.st with armed := armedOf d } }

/-- The data source a read of a length arms (R134, R141). -/
def readSource (n : Nat) : DataSource := if n < Config.fifoDepth then .rxNotEmpty else .rxFull

/-- The data source a setup arms (R133, R134). -/
def setupSource (d : Dir) (len : Len) : DataSource :=
  match d with
  | .write => .txUnderflow
  | .read => readSource len.toNat

/-- A buffered command of a direction: guard, setup, arming (R131 to R134). -/
def queueTransfer (a : SlaveAddr) (d : Dir) (p : StartPolicy) (h : ComplPolicy) (s : State) : State :=
  match qCheck s with
  | .nullBuffer => respond .notReady 0 0 s
  | .illegalState => respond .notReady 0 0 s
  | .busy => respond .busBusy 0 0 (scbBusBusy s)
  | .fresh =>
      let t := respond .ok 0 0 (qSetup a d p h false (scbBusBusy s))
      { t with st := { t.st with dsrc := setupSource d s.argLen } }
  | .resume =>
      let t := respond .ok 0 0 (qSetup a d p h true s)
      { t with st := { t.st with dsrc := setupSource d s.argLen } }

/-- `QWRITE a7, s, h` (R133). -/
def execQwrite (a : SlaveAddr) (p : StartPolicy) (h : ComplPolicy) (s : State) : Host.Outcome State Fault Refusal :=
  .next (queueTransfer a .write p h s)

/-- `QREAD a7, s, h` (R134). -/
def execQread (a : SlaveAddr) (p : StartPolicy) (h : ComplPolicy) (s : State) : Host.Outcome State Fault Refusal :=
  .next (queueTransfer a .read p h s)

/-- What an armed state watches: the priority list and the watched mask (R135). -/
structure Watch where
  order : List Source
  mask : Byte
  deriving DecidableEq, Repr

/-- The table of rule R135, its first row first; IDLE and HALTED have no row (log 22). -/
def interruptWatch (e : Engine) : Option Watch :=
  if e.stopPending then some ⟨orderStop, maskStop⟩
  else
    match e.state with
    | .addrWr => some ⟨orderAddr, maskAddr⟩
    | .addrRd => some ⟨orderAddr, maskAddr⟩
    | .dataWr => some ⟨orderAddr ++ [.txUnderflow], maskAddr ||| sourceMask .txUnderflow⟩
    | .dataRd => some ⟨[dataSource e.dsrc, .mArbLost, .mBusErr],
        sourceMask (dataSource e.dsrc) ||| sourceMask .mArbLost ||| sourceMask .mBusErr⟩
    | .idle => none
    | .halted => none

/-- Queue byte `i` of the write buffer: `ScbTx(MemRead(st.wr.buf + i, 1))` (R136, R138). -/
def queueByte (i : Len) (s : State) : Except Fault State :=
  match memRead (bufferAddr s.st.wr.buf i) s with
  | .error f => .error f
  | .ok r => .ok (scbTx r.1 r.2)

/-- Buffered address ACK (R136). -/
def bufferedAddrAck (s : State) : Except Fault State :=
  let s := scbClear maskAddr s
  if s.st.armed = .write then
    let s := { s with st := { s.st with state := .dataWr } }
    if s.st.wr.len = 0 then .ok (complete s)
    else
      match queueByte 0 s with
      | .error f => .error f
      | .ok s => .ok (scbClear (sourceMask .txUnderflow) s)
  else
    let s := { s with st := { s.st with state := .dataRd } }
    if s.st.rd.len = 0 then .ok (complete s) else .ok s

/-- A NACK of a buffered transfer: HALTED, error flag and XFER_HALT set, disarmed (R137, R139). -/
def bufferedNack (m : Byte) (c : HaltCause) (f : Byte) (s : State) : State :=
  let s := scbClear m s
  { s with st := { s.st with
      state := .halted
      haltCause := c
      status := setFlags (f ||| flagXferHalt) s.st.status
      armed := .none } }

/-- Buffered write, byte ACKed (R138). -/
def bufferedByteAck (s : State) : Except Fault State :=
  let s := scbClear (maskAddr ||| sourceMask .txUnderflow) s
  let s := { s with st := { s.st with wr := { s.st.wr with idx := s.st.wr.idx + 1 } } }
  if s.st.wr.idx = s.st.wr.len then .ok (complete s) else queueByte s.st.wr.idx s

/-- The bytes a buffered read still wants (R141; log 22). -/
def remaining (d : Descriptor) : Nat := d.len.toNat - d.idx.toNat

/-- The drain loop of rule R141, `n` times: one FIFO byte into the buffer, the index past it. -/
def drain : Nat → State → Except Fault State
  | 0, s => .ok s
  | n + 1, s =>
      let r := scbRx s
      match memWrite (bufferAddr r.2.st.rd.buf r.2.st.rd.idx) r.1 r.2 with
      | .error f => .error f
      | .ok s => drain n { s with st := { s.st with rd := { s.st.rd with idx := s.st.rd.idx + 1 } } }

/-- The mask a read step clears: the data source (R141), or the whole watched mask `m` where a watched source that was not chosen is
pending too and is lost (R204 item 1, U7, C11 of 90_conflicts.md). That R141's clear gives way then is DEDUCED (log 25). -/
def readClearMask (m : Byte) (s : State) : Byte :=
  let d := sourceMask (dataSource s.st.dsrc)
  if s.scb.pend &&& m &&& ~~~d = 0 then d else m

/-- The end of a read step that drained `n` bytes, with its watched mask (R141). -/
def afterDrain (m : Byte) (n : Nat) (s : State) : State :=
  let s := scbClear (readClearMask m s) s
  if n = 0 then s
  else if s.st.rd.idx = s.st.rd.len then complete s
  else
    let s := scbCmd cmdAck s
    if remaining s.st.rd < Config.fifoDepth then { s with st := { s.st with dsrc := .rxNotEmpty } } else s

/-- Buffered read, data available, with its watched mask (R141). -/
def bufferedReadData (m : Byte) (s : State) : Except Fault State :=
  let n := min s.scb.rx.length (remaining s.st.rd)
  match drain n (scbRxLevel s) with
  | .error f => .error f
  | .ok s => .ok (afterDrain m n s)

/-- Buffered Stop completion (R143). -/
def bufferedStopDone (s : State) : State :=
  let s := scbClear maskStop s
  { s with st := { s.st with
      status := setFlags (completionFlag s.st.armed) s.st.status
      state := .idle
      haltCause := .none
      ctl := MasterControl.zero
      stopPending := false
      armed := .none } }

/-- The interrupt path is in an address phase (R136, R137). -/
def inAddressPhase (e : Engine) : Bool := decide (e.state = .addrWr) || decide (e.state = .addrRd)

/-- Dispatch of a classified source to the rules R136 to R144. -/
def continueWith (o : Source) (m : Byte) (s : State) : Except Fault State :=
  match o with
  | .mAck => if inAddressPhase s.st then bufferedAddrAck s else bufferedByteAck s
  | .mNack =>
      if inAddressPhase s.st then .ok (bufferedNack maskAddr .addrNak flagErrAddrNak s)
      else .ok (bufferedNack (maskAddr ||| sourceMask .txUnderflow) .dataNak flagErrDataNak s)
  | .mArbLost => .ok (faultRecover .arb m .interruptPath s)
  | .mBusErr => .ok (faultRecover .bus m .interruptPath s)
  | .mStop => .ok (bufferedStopDone s)
  | .rxNotEmpty => bufferedReadData m s
  | .rxFull => bufferedReadData m s
  | .txUnderflow => .ok (scbClear (sourceMask .txUnderflow) s)

/-- The source a step of the interrupt path would classify, with its watched mask; none when the path has no step (R135). -/
def interruptSource (s : State) : Option (Source × Byte) :=
  if s.st.armed = .none then none
  else
    match interruptWatch s.st with
    | none => none
    | some w =>
        match classify s.scb.pend w.order with
        | none => none
        | some o => some (o, w.mask)

/-- A step of the interrupt path (R135). -/
def interruptStep (s : State) : Host.Outcome State Fault Refusal :=
  match interruptSource s with
  | none => noStep .interruptPath
  | some c => outcomeOf (continueWith c.1 c.2 (scbPending s))

end Sys2Proof.Machine
end

