-- ==== Sys2Proof/Machine/Sequencer.lean ====
section
/-! DEFINITION. The manual byte-level sequencer (40_sequencer.md): the issue steps of START, RESTART, STOP, WRBYTE and RDBYTE, and the
resolve steps of their waits. -/

namespace Sys2Proof.Machine

/-- The start of an address phase in `st`: direction, state and halt cause (R95, R96). -/
def enterAddressPhase (r : Dir) (s : State) : State :=
  { s with st := { s.st with dir := r, state := addrState r, haltCause := .none } }

/-- Begin a wait: `st.op` names it and RSP.BUSY reads 1 (R13, R31). -/
def beginWait (w : Wait) (s : State) : State := { s with st := { s.st with op := w } }

/-- `START a7, r` (R95). -/
def execStart (a : SlaveAddr) (r : Dir) (s : State) : Host.Outcome State Fault Refusal :=
  .next <|
    if s.st.state ≠ .idle then respond .notReady 0 0 s
    else if s.scb.busy then respond .busBusy 0 0 (scbBusBusy s)
    else
      let s := scbBusBusy s
      let s := { s with st := { s.st with dir := r, state := addrState r } }
      beginWait .addr (addrIssue a r .start false s)

/-- The guard of RESTART (R96). -/
def restartAllowed (e : Engine) : Bool :=
  decide (e.armed = .none) &&
    (decide (e.state = .dataWr) || decide (e.state = .dataRd) || decide (e.state = .halted))

/-- `RESTART a7, r` (R96). -/
def execRestart (a : SlaveAddr) (r : Dir) (s : State) : Host.Outcome State Fault Refusal :=
  .next <|
    if restartAllowed s.st then
      beginWait .addr (addrIssue a r .restart (rdOwed s.st) (enterAddressPhase r s))
    else respond .notReady 0 0 s

/-- `STOP` (R97). -/
def execStop (s : State) : Host.Outcome State Fault Refusal :=
  .next <|
    if s.st.state = .idle then respond (stopIdleCode Config.stopWhenIdleResult) 0 0 s
    else
      let owed := rdOwed s.st
      let s := { s with st := { s.st with armed := .none, stopPending := false } }
      beginWait .stop (scbCmd (withOwedNack owed cmdStop) s)

/-- The guard of WRBYTE (R99). -/
def writeByteAllowed (e : Engine) : Bool :=
  decide (e.armed = .none) &&
    (decide (e.state = .dataWr) ||
      (decide (e.state = .halted) && decide (e.dir = .write) &&
        (decide (e.haltCause = .wrAck) || decide (e.haltCause = .bufHalt))))

/-- `WRBYTE d8` (R99). -/
def execWrbyte (d : Byte) (s : State) : Host.Outcome State Fault Refusal :=
  .next <|
    if writeByteAllowed s.st then
      beginWait .wr (scbTx d { s with st := { s.st with state := .dataWr, haltCause := .none } })
    else respond .notReady 0 0 s

/-- The guard of RDBYTE (R101). -/
def readByteAllowed (e : Engine) : Bool := decide (e.armed = .none) && decide (e.state = .dataRd)

/-- `RDBYTE k` (R101): no bus action at issue. -/
def execRdbyte (k : AckPolicy) (s : State) : Host.Outcome State Fault Refusal :=
  .next <|
    if readByteAllowed s.st then beginWait (.rd k) s else respond .notReady 0 0 s

/-- The end of a wait, before its outcome is applied: `st.op <- NONE` (R94, R98, R100, R102). -/
def endWait (s : State) : State := { s with st := { s.st with op := .none } }

/-- HALTED with a cause (R94, R100, R102). -/
def haltWith (c : HaltCause) (s : State) : State :=
  { s with st := { s.st with state := .halted, haltCause := c } }

/-- Resolve of the address phase for a classified source (R94). -/
def resolveAddr (o : Source) (s : State) : Host.Outcome State Fault Refusal :=
  match o with
  | .mAck =>
      let s := scbClear maskAddr s
      .next (respond .ok 0 0 { s with st := { s.st with state := dataState s.st.dir } })
  | .mNack => .next (respond .addressNacked 0 0 (haltWith .addrNak (scbClear maskAddr s)))
  | .mArbLost => .next (faultRecover .arb maskAddr .foreground s)
  | .mBusErr => .next (faultRecover .bus maskAddr .foreground s)
  | .mStop => noStep .foreground
  | .rxNotEmpty => noStep .foreground
  | .rxFull => noStep .foreground
  | .txUnderflow => noStep .foreground

/-- Resolve of a Stop for a classified source (R98). -/
def resolveStop (o : Source) (s : State) : Host.Outcome State Fault Refusal :=
  match o with
  | .mStop =>
      let s := scbClear maskStop s
      .next (respond .ok 0 0
        { s with st := { s.st with state := .idle, haltCause := .none, ctl := MasterControl.zero } })
  | .mArbLost => .next (faultRecover .arb maskStop .foreground s)
  | .mBusErr => .next (faultRecover .bus maskStop .foreground s)
  | .mAck => noStep .foreground
  | .mNack => noStep .foreground
  | .rxNotEmpty => noStep .foreground
  | .rxFull => noStep .foreground
  | .txUnderflow => noStep .foreground

/-- Resolve of a byte write for a classified source (R100). -/
def resolveWr (o : Source) (s : State) : Host.Outcome State Fault Refusal :=
  match o with
  | .mAck => .next (respond .ok 0 0 (haltWith .wrAck (scbClear maskAddr s)))
  | .mNack => .next (respond .dataNacked 0 0 (haltWith .dataNak (scbClear maskAddr s)))
  | .mArbLost => .next (faultRecover .arb maskAddr .foreground s)
  | .mBusErr => .next (faultRecover .bus maskAddr .foreground s)
  | .mStop => noStep .foreground
  | .rxNotEmpty => noStep .foreground
  | .rxFull => noStep .foreground
  | .txUnderflow => noStep .foreground

/-- A received byte answered by policy: ACK issued, or HALTED without a bus command (R102). -/
def answerByte (k : AckPolicy) (s : State) : State :=
  match k with
  | .ack => scbCmd cmdAck s
  | .nack => haltWith .rdNak s

/-- Resolve of a byte read for a classified source (R102): the FIFO is read before the clear (R93). -/
def resolveRd (k : AckPolicy) (o : Source) (s : State) : Host.Outcome State Fault Refusal :=
  match o with
  | .rxNotEmpty =>
      let r := scbRx s
      .next (respond .ok r.1 0 (answerByte k (scbClear maskRd r.2)))
  | .mArbLost => .next (faultRecover .arb maskRd .foreground s)
  | .mBusErr => .next (faultRecover .bus maskRd .foreground s)
  | .mAck => noStep .foreground
  | .mNack => noStep .foreground
  | .mStop => noStep .foreground
  | .rxFull => noStep .foreground
  | .txUnderflow => noStep .foreground

/-- The sources a wait watches, in priority order; none when there is no wait (R94, R98, R100, R102). -/
def waitOrder : Wait → List Source
  | .none => []
  | .addr => orderAddr
  | .wr => orderAddr
  | .rd _ => orderRd
  | .stop => orderStop

/-- The outcome of a wait, by the wait (R94, R98, R100, R102). -/
def resolveBy (w : Wait) (o : Source) (s : State) : Host.Outcome State Fault Refusal :=
  match w with
  | .none => noStep .foreground
  | .addr => resolveAddr o s
  | .wr => resolveWr o s
  | .rd k => resolveRd k o s
  | .stop => resolveStop o s

/-- The resolve step of the foreground (R13): enabled exactly when a watched source is pending. -/
def resolveStep (s : State) : Host.Outcome State Fault Refusal :=
  match classify s.scb.pend (waitOrder s.st.op) with
  | none => noStep .foreground
  | some o => resolveBy s.st.op o (endWait (scbPending s))

end Sys2Proof.Machine
end

