-- ==== Sys2Proof/Machine/Workaround.lean ====
section
/-! DEFINITION. The ReStart generation workaround (42_restart_workaround.md). -/

namespace Sys2Proof.Machine

/-- The read branch of rule R170: one synthetic clock pulse, then START. -/
def rstwaRead (s : State) : State :=
  let s := lineSetDriveMode .gpio (lineWrite false s)
  let s := scbEnable false s
  let s := delay Config.tLowUs (lineWrite false s)
  let s := delay Config.tHighUs (lineWrite true s)
  let s := delay Config.tLowUs (lineWrite false s)
  let s := lineSetDriveMode .periph (scbEnable true s)
  scbCmd cmdStart s

/-- The write branch of rule R170: clock low, soft reset, START. -/
def rstwaWrite (s : State) : State := scbCmd cmdStart (scbSoftReset (lineWrite false s))

/-- `RSTWA` (R170, R171): the whole sequence in one critical section, as one step. -/
def execRstwa (s : State) : Host.Outcome State Fault Refusal :=
  .next <|
    if s.st.state = .idle then respond .ok 0 0 s
    else
      match s.st.dir with
      | .read => respond .ok 0 0 (csRelease (rstwaRead (csAcquire s)))
      | .write => respond .ok 0 0 (csRelease (rstwaWrite (csAcquire s)))

end Sys2Proof.Machine
end

