-- ==== Sys2Proof/Machine/Dispatch.lean ====
section
/-! DEFINITION. The meaning of each command, one arm each. -/

namespace Sys2Proof.Machine

def exec (i : Instr) (s : State) : Host.Outcome State Fault Refusal :=
  match i with
  | .start a r => Sys2Proof.Machine.execStart a r s
  | .restart a r => Sys2Proof.Machine.execRestart a r s
  | .stop => Sys2Proof.Machine.execStop s
  | .wrbyte d => Sys2Proof.Machine.execWrbyte d s
  | .rdbyte k => Sys2Proof.Machine.execRdbyte k s
  | .qwrite a p h => Sys2Proof.Machine.execQwrite a p h s
  | .qread a p h => Sys2Proof.Machine.execQread a p h s
  | .getwcnt => Sys2Proof.Machine.execGetwcnt s
  | .getrcnt => Sys2Proof.Machine.execGetrcnt s
  | .clrwbuf => Sys2Proof.Machine.execClrwbuf s
  | .clrrbuf => Sys2Proof.Machine.execClrrbuf s
  | .getstat => Sys2Proof.Machine.execGetstat s
  | .clrstat => Sys2Proof.Machine.execClrstat s
  | .rstwa => Sys2Proof.Machine.execRstwa s

end Sys2Proof.Machine
end

