-- ==== Sys2Proof/Machine/HostPort.lean ====
section
/-! DEFINITION. The host's side: the four host registers (10_state.md R32 to R34), the caller's stores to its own memory
(93_implementation_defined.md U11) and driver initialisation (70_reset_and_hazards.md R240). -/

namespace Sys2Proof.Machine

/-- The four host registers (R32). -/
inductive HostReg where
  | cmd
  | argBuf
  | argLen
  | rsp
  deriving DecidableEq, Repr

/-- The register of an access; none unless it is an aligned 32-bit word of one of the four (R32, R54; log 14). -/
def hostReg (offset width : Nat) : Option HostReg :=
  if width = 4 then
    match offset with
    | 0x0 => some .cmd
    | 0x4 => some .argBuf
    | 0x8 => some .argLen
    | 0xC => some .rsp
    | _ => none
  else none

/-- What a host read of a register returns (R32, R33): CMD reads 0, ARG_LEN's unused bits read 0. -/
def hostRegValue (r : HostReg) (s : State) : Word :=
  match r with
  | .cmd => 0
  | .argBuf => s.argBuf
  | .argLen => s.argLen.setWidth 32
  | .rsp => rspWord s

/-- A host read (R32, R56: without a side effect; log 19). -/
def hostReadStep (offset width : Nat) (s : State) : Host.Outcome State Fault Refusal :=
  match hostReg offset width with
  | none => .refused (.badHostAccess offset width)
  | some r => .next { s with readData := hostRegValue r s }

/-- A write to CMD starts the command its word encodes (R34), unless BUSY (U10) or a bad word (R74, U1). -/
def commandWrite (w : Word) (s : State) : Host.Outcome State Fault Refusal :=
  if busyBit s then .refused (.cmdWhileBusy w)
  else
    match decode w with
    | .error why => .refused (.badCommandWord why w)
    | .ok i => exec i s

/-- A host write (R32, R34): ARG_LEN keeps its LEN_W bits, RSP ignores the write. -/
def hostWriteStep (offset width : Nat) (v : Word) (s : State) : Host.Outcome State Fault Refusal :=
  match hostReg offset width with
  | none => .refused (.badHostAccess offset width)
  | some .cmd => commandWrite v s
  | some .argBuf => .next { s with argBuf := v }
  | some .argLen => .next { s with argLen := v.setWidth 16 }
  | some .rsp => .next s

/-- The caller changes a byte of its memory (U11; log 16); it has none at a hole (R58). -/
def callerStoreStep (a : Addr) (v : Byte) (s : State) : Host.Outcome State Fault Refusal :=
  match s.mem.write a v with
  | none => .fault (.memoryRefused a)
  | some m => .next { s with mem := m }

/-- Driver initialisation: every field of rule R39's table; the environment and the model's own fields stay (R240; log 21). -/
def driverInitStep (s : State) : Host.Outcome State Fault Refusal :=
  .next { s with
    st := Engine.reset
    argBuf := 0
    argLen := 0
    rsp := ⟨.ok, 0, 0⟩
    trace := []
    softResets := 0 }

end Sys2Proof.Machine
end

