-- ==== Sys2Proof/Machine/Agents.lean ====
section
/-! DEFINITION. The agents' atomic steps (10_state.md R36, R38): the moves of the SCB environment, and the dispatch of a scheduled move. -/

namespace Sys2Proof.Machine

/-- A step of the SCB environment (R36, R210). It touches `scb` alone. -/
def envStep (e : EnvMove) (s : State) : Host.Outcome State Fault Refusal :=
  match e with
  | .raise m => .next { s with scb := { s.scb with pend := s.scb.pend ||| m } }
  | .lower m => .next { s with scb := { s.scb with pend := s.scb.pend &&& ~~~m } }
  | .rxPush b =>
      if s.scb.rx.length < Config.fifoDepth then .next { s with scb := { s.scb with rx := s.scb.rx ++ [b] } }
      else noStep .environment
  | .txPop =>
      match s.scb.tx with
      | [] => noStep .environment
      | _ :: rest => .next { s with scb := { s.scb with tx := rest } }
  | .setBusy v => .next { s with scb := { s.scb with busy := v } }

/-- One atomic step of the agent a move names (R38). -/
def runMove (m : Move) (s : State) : Host.Outcome State Fault Refusal :=
  match m with
  | .hostWrite offset width v => hostWriteStep offset width v s
  | .hostRead offset width => hostReadStep offset width s
  | .callerStore a v => callerStoreStep a v s
  | .resolve => resolveStep s
  | .interrupt => interruptStep s
  | .env e => envStep e s
  | .driverInit => driverInitStep s

/-- A CMD write at the head of the schedule: how a command word reaches the engine (R34, R63; log 15). -/
def scheduleCommand (w : Word) (s : State) : State := { s with moves := .hostWrite 0x0 4 w :: s.moves }

end Sys2Proof.Machine
end

