-- ==== Sys2Proof/Machine/Step.lean ====
section
/-! DEFINITION. One machine step: the head of the schedule. -/

namespace Sys2Proof.Machine

/-- One atomic step of the agent the schedule names next (R38, R59; log 1). With nothing scheduled every agent stays where it is (log 2). -/
def step (s : State) : Host.Outcome State Fault Refusal :=
  match s.moves with
  | [] => .next s
  | m :: rest => runMove m { s with moves := rest }

/-- The word placed where the next step takes its command from: a write to CMD at the head of the schedule (log 15). -/
def State.withFetchWord (s : State) (nbits w : Nat) : State :=
  scheduleCommand (BitVec.ofNat 32 (w % 2 ^ nbits)) s

end Sys2Proof.Machine
end

