-- ==== Sys2Proof/Safety.lean ====
section
/-! DEFINITION. What a safe state and a quiescent state are: the invariants of rule R40, those the model adds to make them inductive, the
end of a run (R252), and the steps that soft-reset the SCB (R205, R170). -/

namespace Sys2Proof.Machine

/-- The eight items of rule R40, one field or more each. -/
structure State.SpecInv (s : State) : Prop where
  /-- item 1 -/
  wrIdxLe : s.st.wr.idx ≤ s.st.wr.len
  /-- item 1 -/
  rdIdxLe : s.st.rd.idx ≤ s.st.rd.len
  /-- item 2 -/
  haltCauseIff : s.st.haltCause ≠ .none ↔ s.st.state = .halted
  /-- item 3 -/
  xferInpZero : s.st.status.getLsbD 2 = false
  /-- item 4, WRITE -/
  armedWrite : s.st.armed = .write → s.st.state = .addrWr ∨ s.st.state = .dataWr
  /-- item 4, READ -/
  armedRead : s.st.armed = .read → s.st.state = .addrRd ∨ s.st.state = .dataRd
  /-- item 5 -/
  stopPendingArmed : s.st.stopPending = true →
    s.st.armed ≠ .none ∧ (s.st.state = .dataWr ∨ s.st.state = .dataRd)
  /-- item 6 -/
  waitDisarmed : s.st.op ≠ .none → s.st.armed = .none
  /-- item 7, W_ADDR -/
  waitAddr : s.st.op = .addr → s.st.state = .addrWr ∨ s.st.state = .addrRd
  /-- item 7, W_WR -/
  waitWr : s.st.op = .wr → s.st.state = .dataWr
  /-- item 7, W_RD -/
  waitRd : ∀ k, s.st.op = .rd k → s.st.state = .dataRd
  /-- item 8 -/
  idleCtl : s.st.state = .idle → s.st.ctl = MasterControl.zero

/-- Rule R40 with what the model adds to it: an armed transfer's direction, data source and progress, the bound of the RX FIFO
(R36) and the canonical form of caller memory. The additions are the model's own (DEDUCED; log 22). -/
structure State.Inv (s : State) : Prop extends State.SpecInv s where
  armedDir : ∀ d, s.st.armed = armedOf d → s.st.dir = d
  armedSource : (s.st.armed = .write → s.st.dsrc = .txUnderflow) ∧
    (s.st.armed = .read → s.st.dsrc ≠ .txUnderflow)
  writeFresh : s.st.armed = .write → s.st.state = .addrWr → s.st.wr.idx = 0
  readFresh : s.st.armed = .read → s.st.state = .addrRd → s.st.rd.idx = 0
  writeUnfinished : s.st.armed = .write → s.st.state = .dataWr → s.st.stopPending = false →
    s.st.wr.idx < s.st.wr.len
  readUnfinished : s.st.armed = .read → s.st.state = .dataRd → s.st.stopPending = false →
    s.st.rd.idx < s.st.rd.len
  waitStop : s.st.op = .stop → s.st.state ≠ .idle
  rxBound : s.scb.rx.length ≤ Config.fifoDepth
  memWf : s.mem.wf = true

/-- A quiescent state (R252): no manual wait and no armed transfer. -/
abbrev State.Quiescent (s : State) : Prop := s.st.op = .none ∧ s.st.armed = .none

/-- The move is a step whose classification comes out as arbitration loss or bus error, so it enters fault recovery (R205): a resolve
step by its wait's order, an interrupt step by its row's. -/
def State.EntersFault (s : State) : Move → Prop
  | .resolve => ∃ o, classify s.scb.pend (waitOrder s.st.op) = some o ∧ (o = .mArbLost ∨ o = .mBusErr)
  | .interrupt => ∃ c, interruptSource s = some c ∧ (c.1 = .mArbLost ∨ c.1 = .mBusErr)
  | .hostWrite _ _ _ => False
  | .hostRead _ _ => False
  | .callerStore _ _ => False
  | .env _ => False
  | .driverInit => False

/-- The move is the CMD write of RSTWA in a state in which it takes its write branch (R170). -/
abbrev State.EntersWriteWorkaround (s : State) (m : Move) : Prop :=
  m = .hostWrite 0x0 4 0x0000000E ∧ s.st.state ≠ .idle ∧ s.st.dir = .write

/-- A safe step: the machine goes on, and to a state that meets the invariant. -/
def State.SafeStep (s : State) : Prop := ∃ t, step s = .next t ∧ t.Inv

end Sys2Proof.Machine
end

