-- ==== Sys2Proof/Certificates/Slice0/Obligations.lean ====
section
/-! DEFINITION. The statements for the provers. `s.moves = .resolve :: rest` says that the foreground's resolve step is scheduled next,
and likewise for the other agents (log 1). A command is stated for RSP.BUSY = 0, the only time the host may write CMD (R34). -/

open Sys2Proof Sys2Proof.Machine

/-! ### Encoding -/

/-- R71, R73, R75: the decoder gives back every encoded command. -/
def Obligations.DecodeOfEncode : Prop :=
  ∀ i : Instr, i.wellFormed = true → decode (encode i) = .ok i

/-- R71, R73, R75: a word that decodes is the word of its command, so no bit of it is dropped. -/
def Obligations.EncodeOfDecode : Prop :=
  ∀ (w : Word) (i : Instr), decode w = .ok i → encode i = w

/-- R74: a word with a reserved opcode, or with a non-zero reserved or unused field, spells no command and its write is refused. -/
def Obligations.ReservedWordsRefused : Prop :=
  (∀ w : Word, (∃ why, decode w = .error why) ↔ commandWordWellFormed w = false) ∧
  ∀ (s : State) (w : Word) (rest : List Move),
    s.moves = .hostWrite 0x0 4 w :: rest → s.st.op = .none → commandWordWellFormed w = false →
    ∃ why, step s = .refused (.badCommandWord why w)

/-- R82: the spec's encoding examples. -/
def Obligations.SpecExampleWords : Prop :=
  decode 0x00000501 = .ok (.start 0x50 .write) ∧ decode 0x00000D01 = .ok (.start 0x50 .read) ∧
  decode 0x00000D02 = .ok (.restart 0x50 .read) ∧ decode 0x00000003 = .ok .stop ∧
  decode 0x00120004 = .ok (.wrbyte 0x12) ∧ decode 0x00001005 = .ok (.rdbyte .ack) ∧
  decode 0x00000005 = .ok (.rdbyte .nack) ∧ decode 0x00000506 = .ok (.qwrite 0x50 .start .stop) ∧
  decode 0x00004506 = .ok (.qwrite 0x50 .start .halt) ∧ decode 0x00002507 = .ok (.qread 0x50 .restart .stop) ∧
  decode 0x0000000C = .ok .getstat ∧ decode 0x0000000D = .ok .clrstat ∧ decode 0x0000000E = .ok .rstwa ∧
  decode 0x00000000 = .error .reservedOpcode ∧ decode 0x0000000F = .error .reservedOpcode ∧
  decode 0x00010003 = .error .nonzeroUnusedBits ∧ decode 0x00008001 = .error .nonzeroUnusedBits

/-- R77: the address byte is `(A << 1) | rw` with rw = 1 for read. -/
def Obligations.WireByteLayout : Prop :=
  (∀ a : SlaveAddr, wireByte a .read = (a.setWidth 8 <<< 1) ||| 1) ∧
  (∀ a : SlaveAddr, wireByte a .write = a.setWidth 8 <<< 1) ∧
  wireByte 0x50 .write = 0xA0 ∧ wireByte 0x50 .read = 0xA1 ∧ wireByte 0x7F .read = 0xFF ∧ wireByte 0x00 .write = 0x00

/-! ### The host port -/

/-- R34, R75: a CMD write while RSP.BUSY = 0 runs the command its word decodes to, as one step; `withFetchWord` places such a write. -/
def Obligations.StepRunsDecodedCommand : Prop :=
  (∀ (s : State) (w : Word) (i : Instr) (rest : List Move),
    s.moves = .hostWrite 0x0 4 w :: rest → s.st.op = .none → decode w = .ok i →
    step s = exec i { s with moves := rest }) ∧
  (∀ (s : State) (w : Word) (i : Instr),
    s.st.op = .none → decode w = .ok i → step (s.withFetchWord 32 w.toNat) = exec i s)

/-- R34, U10: a CMD write while RSP.BUSY = 1 is refused, whatever its word. -/
def Obligations.CommandWhileBusyRefused : Prop :=
  ∀ (s : State) (w : Word) (rest : List Move),
    s.moves = .hostWrite 0x0 4 w :: rest → s.st.op ≠ .none → step s = .refused (.cmdWhileBusy w)

/-- R32, but for CMD writes: what each register's read returns, what the other writes keep, and the reset values. A read's value is in
`readData`, the model's own field (log 19). -/
def Obligations.HostRegistersReadAndWrite : Prop :=
  (∀ (s : State) (rest : List Move),
    (s.moves = .hostRead 0x0 4 :: rest → step s = .next { s with moves := rest, readData := 0 }) ∧
    (s.moves = .hostRead 0x4 4 :: rest → step s = .next { s with moves := rest, readData := s.argBuf }) ∧
    (s.moves = .hostRead 0x8 4 :: rest → step s = .next { s with moves := rest, readData := s.argLen.setWidth 32 }) ∧
    (s.moves = .hostRead 0xC 4 :: rest → step s = .next { s with moves := rest, readData := rspWord s })) ∧
  (∀ (s : State) (v : Word) (rest : List Move),
    (s.moves = .hostWrite 0x4 4 v :: rest → step s = .next { s with moves := rest, argBuf := v }) ∧
    (s.moves = .hostWrite 0x8 4 v :: rest → step s = .next { s with moves := rest, argLen := v.extractLsb' 0 16 }) ∧
    (s.moves = .hostWrite 0xC 4 v :: rest → step s = .next { s with moves := rest })) ∧
  State.reset.argBuf = 0 ∧ State.reset.argLen = 0 ∧ rspWord State.reset = 0

/-- R33, R31, R76: the numbers of the result codes and the fields of the RSP word; BUSY is 1 exactly while `st.op` names a wait, and
`respond` clears it. -/
def Obligations.RspWordFields : Prop :=
  (resultCodeNumber .ok = 0 ∧ resultCodeNumber .notReady = 1 ∧ resultCodeNumber .busBusy = 2 ∧
    resultCodeNumber .addressNacked = 3 ∧ resultCodeNumber .dataNacked = 4 ∧ resultCodeNumber .arbitrationLost = 5 ∧
    resultCodeNumber .busError = 6) ∧
  ∀ s : State,
    (rspWord s).extractLsb' 0 4 = resultCodeNumber s.rsp.code ∧ (rspWord s).extractLsb' 4 3 = 0 ∧
    ((rspWord s).getLsbD 7 = true ↔ s.st.op ≠ .none) ∧
    (rspWord s).extractLsb' 8 8 = s.rsp.data ∧ (rspWord s).extractLsb' 16 16 = s.rsp.value ∧
    ∀ (c : ResultCode) (d : Byte) (v : BitVec 16),
      rspWord (respond c d v s) = v ++ d ++ 0#4 ++ resultCodeNumber c

/-- R54: a narrower or misaligned access of the register space is refused; past its four words there is no register (log 14). -/
def Obligations.BadHostAccessRefused : Prop :=
  ∀ (s : State) (offset width : Nat) (v : Word) (rest : List Move),
    (width ≠ 4 ∨ offset % 4 ≠ 0 ∨ 0x10 ≤ offset) →
    (s.moves = .hostWrite offset width v :: rest → step s = .refused (.badHostAccess offset width)) ∧
    (s.moves = .hostRead offset width :: rest → step s = .refused (.badHostAccess offset width))

/-! ### Shared sequences -/

/-- R14: `classify` gives the first source of the list whose bit is set, or NONE; the three lists; and RX_FULL in place of RX_NOT_EMPTY
where it is the armed data source. -/
def Obligations.ClassifyTakesFirstPending : Prop :=
  (∀ (p : Byte) (order : List Source) (o : Source),
    classify p order = some o ↔
      ∃ before after, order = before ++ o :: after ∧ p.getLsbD (sourceBit o) = true ∧
        ∀ x ∈ before, p.getLsbD (sourceBit x) = false) ∧
  (∀ (p : Byte) (order : List Source),
    classify p order = none ↔ ∀ x ∈ order, p.getLsbD (sourceBit x) = false) ∧
  orderAddr = [.mAck, .mNack, .mArbLost, .mBusErr] ∧ orderRd = [.rxNotEmpty, .mArbLost, .mBusErr] ∧
  orderStop = [.mStop, .mArbLost, .mBusErr] ∧
  ∀ e : Engine, e.state = .dataRd → e.stopPending = false →
    (e.dsrc = .rxNotEmpty → interruptWatch e = some ⟨[.rxNotEmpty, .mArbLost, .mBusErr], 0x2C⟩) ∧
    (e.dsrc = .rxFull → interruptWatch e = some ⟨[.rxFull, .mArbLost, .mBusErr], 0x4C⟩)

/-- R91: START is written after the address byte is queued, RESTART before it, with NACK when one is owed. -/
def Obligations.AddressIssueOrder : Prop :=
  ∀ (a : SlaveAddr) (r : Dir) (s : State),
    addrIssue a r .start false s =
      { s with scb := { s.scb with tx := s.scb.tx ++ [a ++ r.bit] }
               trace := s.trace ++ [.scbTx (a ++ r.bit), .scbCmd 0x01] } ∧
    addrIssue a r .start true s =
      { s with scb := { s.scb with tx := s.scb.tx ++ [a ++ r.bit] }
               trace := s.trace ++ [.scbTx (a ++ r.bit), .scbCmd 0x11] } ∧
    addrIssue a r .restart false s =
      { s with scb := { s.scb with tx := s.scb.tx ++ [a ++ r.bit] }
               trace := s.trace ++ [.scbCmd 0x02, .scbTx (a ++ r.bit)] } ∧
    addrIssue a r .restart true s =
      { s with scb := { s.scb with tx := s.scb.tx ++ [a ++ r.bit] }
               trace := s.trace ++ [.scbCmd 0x12, .scbTx (a ++ r.bit)] }

/-- R206: the whole of fault recovery, for a foreground entry and for an interrupt-path entry. The SCB after its soft reset is any
value (U6), so nothing is said of it. -/
def Obligations.FaultRecoveryEffect : Prop :=
  ∀ (kind : FaultKind) (m : Byte) (s : State),
    (∃ (scb : Scb) (n : Nat), faultRecover kind m .foreground s =
      { s with
          st := { s.st with state := .idle, haltCause := .none, ctl := ⟨.start, .stop⟩, armed := .none
                            stopPending := false, op := .none }
          rsp := ⟨if kind = .arb then .arbitrationLost else .busError, 0, 0⟩
          trace := s.trace ++ [.scbClear m, .csAcquire, .scbSoftReset, .csRelease]
          softResets := s.softResets + 1
          scb := scb, freeCount := n }) ∧
    (∃ (scb : Scb) (n : Nat), faultRecover kind m .interruptPath s =
      { s with
          st := { s.st with state := .idle, haltCause := .none, ctl := ⟨.start, .stop⟩, armed := .none
                            stopPending := false, op := .none
                            status := s.st.status ||| (if kind = .arb then 0x40 else 0x80) }
          trace := s.trace ++ [.scbClear m, .csAcquire, .scbSoftReset, .csRelease]
          softResets := s.softResets + 1
          scb := scb, freeCount := n })

/-- R142: Complete() under both completion policies. -/
def Obligations.CompleteEffect : Prop :=
  ∀ s : State,
    (s.st.ctl.compl = .stop → complete s =
      { s with
          st := { s.st with stopPending := true }
          trace := s.trace ++ [.scbCmd (if rdOwed s.st = true then 0x14 else 0x04)] }) ∧
    (s.st.ctl.compl = .halt → complete s =
      { s with
          st := { s.st with
            state := .halted, haltCause := .bufHalt, armed := .none
            status := s.st.status ||| (if s.st.armed = .write then 0x02 else 0x01) ||| 0x08 } })

/-! ### The manual sequencer -/

/-- R95: START. -/
def Obligations.StartIssue : Prop :=
  ∀ (a : SlaveAddr) (r : Dir) (s : State), s.st.op = .none →
    (s.st.state ≠ .idle → exec (.start a r) s = .next { s with rsp := ⟨.notReady, 0, 0⟩ }) ∧
    (s.st.state = .idle → s.scb.busy = true → exec (.start a r) s =
      .next { s with rsp := ⟨.busBusy, 0, 0⟩, trace := s.trace ++ [.scbBusBusy true] }) ∧
    (s.st.state = .idle → s.scb.busy = false → exec (.start a r) s =
      .next { s with
        st := { s.st with dir := r, state := if r = .read then .addrRd else .addrWr, op := .addr }
        scb := { s.scb with tx := s.scb.tx ++ [a ++ r.bit] }
        trace := s.trace ++ [.scbBusBusy false, .scbTx (a ++ r.bit), .scbCmd 0x01] })

/-- R96: RESTART, with the owed NACK of R92. -/
def Obligations.RestartIssue : Prop :=
  ∀ (a : SlaveAddr) (r : Dir) (s : State), s.st.op = .none →
    (s.st.armed ≠ .none ∨ (s.st.state ≠ .dataWr ∧ s.st.state ≠ .dataRd ∧ s.st.state ≠ .halted) →
      exec (.restart a r) s = .next { s with rsp := ⟨.notReady, 0, 0⟩ }) ∧
    (s.st.armed = .none → (s.st.state = .dataWr ∨ s.st.state = .dataRd ∨ s.st.state = .halted) →
      exec (.restart a r) s =
      .next { s with
        st := { s.st with dir := r, haltCause := .none, state := if r = .read then .addrRd else .addrWr, op := .addr }
        scb := { s.scb with tx := s.scb.tx ++ [a ++ r.bit] }
        trace := s.trace ++
          [.scbCmd (if s.st.dir = .read ∧ (s.st.state = .dataRd ∨ s.st.state = .halted ∧ s.st.haltCause ≠ .addrNak)
             then 0x12 else 0x02),
           .scbTx (a ++ r.bit)] })

/-- R97: STOP, with the owed NACK of R92. -/
def Obligations.StopIssue : Prop :=
  ∀ s : State, s.st.op = .none →
    (s.st.state = .idle → exec .stop s =
      .next { s with rsp := ⟨if Config.stopWhenIdleResult = .ok then .ok else .notReady, 0, 0⟩ }) ∧
    (s.st.state ≠ .idle → exec .stop s =
      .next { s with
        st := { s.st with armed := .none, stopPending := false, op := .stop }
        trace := s.trace ++
          [.scbCmd (if s.st.dir = .read ∧ (s.st.state = .dataRd ∨ s.st.state = .halted ∧ s.st.haltCause ≠ .addrNak)
             then 0x14 else 0x04)] })

/-- R99: WRBYTE. -/
def Obligations.WriteByteIssue : Prop :=
  ∀ (d : Byte) (s : State), s.st.op = .none →
    (s.st.armed = .none →
      (s.st.state = .dataWr ∨
        s.st.state = .halted ∧ s.st.dir = .write ∧ (s.st.haltCause = .wrAck ∨ s.st.haltCause = .bufHalt)) →
      exec (.wrbyte d) s =
      .next { s with
        st := { s.st with state := .dataWr, haltCause := .none, op := .wr }
        scb := { s.scb with tx := s.scb.tx ++ [d] }
        trace := s.trace ++ [.scbTx d] }) ∧
    (s.st.armed ≠ .none ∨
      ¬(s.st.state = .dataWr ∨
        s.st.state = .halted ∧ s.st.dir = .write ∧ (s.st.haltCause = .wrAck ∨ s.st.haltCause = .bufHalt)) →
      exec (.wrbyte d) s = .next { s with rsp := ⟨.notReady, 0, 0⟩ })

/-- R101: RDBYTE. -/
def Obligations.ReadByteIssue : Prop :=
  ∀ (k : AckPolicy) (s : State), s.st.op = .none →
    (s.st.armed = .none → s.st.state = .dataRd →
      exec (.rdbyte k) s = .next { s with st := { s.st with op := .rd k } }) ∧
    (s.st.armed ≠ .none ∨ s.st.state ≠ .dataRd →
      exec (.rdbyte k) s = .next { s with rsp := ⟨.notReady, 0, 0⟩ })

/-- R94: resolve of the address phase. -/
def Obligations.AddressResolve : Prop :=
  ∀ (s : State) (rest : List Move), s.moves = .resolve :: rest → s.st.op = .addr →
    (s.scb.pend.getLsbD 0 = true → step s =
      .next { s with
        moves := rest
        st := { s.st with op := .none, state := if s.st.dir = .read then .dataRd else .dataWr }
        scb := { s.scb with pend := s.scb.pend &&& 0xF0 }
        rsp := ⟨.ok, 0, 0⟩
        trace := s.trace ++ [.scbPending s.scb.pend, .scbClear 0x0F] }) ∧
    (s.scb.pend.getLsbD 0 = false → s.scb.pend.getLsbD 1 = true → step s =
      .next { s with
        moves := rest
        st := { s.st with op := .none, state := .halted, haltCause := .addrNak }
        scb := { s.scb with pend := s.scb.pend &&& 0xF0 }
        rsp := ⟨.addressNacked, 0, 0⟩
        trace := s.trace ++ [.scbPending s.scb.pend, .scbClear 0x0F] }) ∧
    (s.scb.pend.getLsbD 0 = false → s.scb.pend.getLsbD 1 = false → s.scb.pend.getLsbD 2 = true → step s =
      .next (faultRecover .arb 0x0F .foreground
        { s with moves := rest, st := { s.st with op := .none }, trace := s.trace ++ [.scbPending s.scb.pend] })) ∧
    (s.scb.pend.getLsbD 0 = false → s.scb.pend.getLsbD 1 = false → s.scb.pend.getLsbD 2 = false →
      s.scb.pend.getLsbD 3 = true → step s =
      .next (faultRecover .bus 0x0F .foreground
        { s with moves := rest, st := { s.st with op := .none }, trace := s.trace ++ [.scbPending s.scb.pend] })) ∧
    (s.scb.pend &&& 0x0F = 0 → step s = .fault (.noStep .foreground))

/-- R98: resolve of a Stop. -/
def Obligations.StopResolve : Prop :=
  ∀ (s : State) (rest : List Move), s.moves = .resolve :: rest → s.st.op = .stop →
    (s.scb.pend.getLsbD 4 = true → step s =
      .next { s with
        moves := rest
        st := { s.st with op := .none, state := .idle, haltCause := .none, ctl := ⟨.start, .stop⟩ }
        scb := { s.scb with pend := s.scb.pend &&& 0xE3 }
        rsp := ⟨.ok, 0, 0⟩
        trace := s.trace ++ [.scbPending s.scb.pend, .scbClear 0x1C] }) ∧
    (s.scb.pend.getLsbD 4 = false → s.scb.pend.getLsbD 2 = true → step s =
      .next (faultRecover .arb 0x1C .foreground
        { s with moves := rest, st := { s.st with op := .none }, trace := s.trace ++ [.scbPending s.scb.pend] })) ∧
    (s.scb.pend.getLsbD 4 = false → s.scb.pend.getLsbD 2 = false → s.scb.pend.getLsbD 3 = true → step s =
      .next (faultRecover .bus 0x1C .foreground
        { s with moves := rest, st := { s.st with op := .none }, trace := s.trace ++ [.scbPending s.scb.pend] })) ∧
    (s.scb.pend &&& 0x1C = 0 → step s = .fault (.noStep .foreground))

/-- R100: resolve of a byte write. -/
def Obligations.WriteByteResolve : Prop :=
  ∀ (s : State) (rest : List Move), s.moves = .resolve :: rest → s.st.op = .wr →
    (s.scb.pend.getLsbD 0 = true → step s =
      .next { s with
        moves := rest
        st := { s.st with op := .none, state := .halted, haltCause := .wrAck }
        scb := { s.scb with pend := s.scb.pend &&& 0xF0 }
        rsp := ⟨.ok, 0, 0⟩
        trace := s.trace ++ [.scbPending s.scb.pend, .scbClear 0x0F] }) ∧
    (s.scb.pend.getLsbD 0 = false → s.scb.pend.getLsbD 1 = true → step s =
      .next { s with
        moves := rest
        st := { s.st with op := .none, state := .halted, haltCause := .dataNak }
        scb := { s.scb with pend := s.scb.pend &&& 0xF0 }
        rsp := ⟨.dataNacked, 0, 0⟩
        trace := s.trace ++ [.scbPending s.scb.pend, .scbClear 0x0F] }) ∧
    (s.scb.pend.getLsbD 0 = false → s.scb.pend.getLsbD 1 = false → s.scb.pend.getLsbD 2 = true → step s =
      .next (faultRecover .arb 0x0F .foreground
        { s with moves := rest, st := { s.st with op := .none }, trace := s.trace ++ [.scbPending s.scb.pend] })) ∧
    (s.scb.pend.getLsbD 0 = false → s.scb.pend.getLsbD 1 = false → s.scb.pend.getLsbD 2 = false →
      s.scb.pend.getLsbD 3 = true → step s =
      .next (faultRecover .bus 0x0F .foreground
        { s with moves := rest, st := { s.st with op := .none }, trace := s.trace ++ [.scbPending s.scb.pend] })) ∧
    (s.scb.pend &&& 0x0F = 0 → step s = .fault (.noStep .foreground))

/-- R102: resolve of a byte read, both ack policies. The byte an empty FIFO gives is any value (U3). -/
def Obligations.ReadByteResolve : Prop :=
  ∀ (s : State) (k : AckPolicy) (rest : List Move), s.moves = .resolve :: rest → s.st.op = .rd k →
    (∀ (b : Byte) (more : List Byte), s.scb.pend.getLsbD 5 = true → s.scb.rx = b :: more → step s =
      .next { s with
        moves := rest
        st := if k = .ack then { s.st with op := .none }
              else { s.st with op := .none, state := .halted, haltCause := .rdNak }
        scb := { s.scb with rx := more, pend := s.scb.pend &&& 0xD3 }
        rsp := ⟨.ok, b, 0⟩
        trace := s.trace ++ [.scbPending s.scb.pend, .scbRx b, .scbClear 0x2C] ++
          (if k = .ack then [.scbCmd 0x08] else []) }) ∧
    (s.scb.pend.getLsbD 5 = true → s.scb.rx = [] → ∃ (x : Byte) (n : Nat), step s =
      .next { s with
        moves := rest
        st := if k = .ack then { s.st with op := .none }
              else { s.st with op := .none, state := .halted, haltCause := .rdNak }
        scb := { s.scb with pend := s.scb.pend &&& 0xD3 }
        rsp := ⟨.ok, x, 0⟩
        freeCount := n
        trace := s.trace ++ [.scbPending s.scb.pend, .scbRx x, .scbClear 0x2C] ++
          (if k = .ack then [.scbCmd 0x08] else []) }) ∧
    (s.scb.pend.getLsbD 5 = false → s.scb.pend.getLsbD 2 = true → step s =
      .next (faultRecover .arb 0x2C .foreground
        { s with moves := rest, st := { s.st with op := .none }, trace := s.trace ++ [.scbPending s.scb.pend] })) ∧
    (s.scb.pend.getLsbD 5 = false → s.scb.pend.getLsbD 2 = false → s.scb.pend.getLsbD 3 = true → step s =
      .next (faultRecover .bus 0x2C .foreground
        { s with moves := rest, st := { s.st with op := .none }, trace := s.trace ++ [.scbPending s.scb.pend] })) ∧
    (s.scb.pend &&& 0x2C = 0 → step s = .fault (.noStep .foreground))

/-- R27, R90: no manual operation sets or clears a flag, at issue or at resolve. -/
def Obligations.ManualApiWritesNoFlag : Prop :=
  (∀ (i : Instr) (s t : State), exec i s = .next t →
    ((∃ a r, i = .start a r) ∨ (∃ a r, i = .restart a r) ∨ i = .stop ∨ (∃ d, i = .wrbyte d) ∨ (∃ k, i = .rdbyte k)) →
    t.st.status = s.st.status) ∧
  (∀ (s t : State) (rest : List Move), s.moves = .resolve :: rest → step s = .next t → t.st.status = s.st.status)

/-! ### Buffered transfers -/

/-- R131, R132, R133: QWRITE, from its guard to its arming. -/
def Obligations.QueueWriteIssue : Prop :=
  ∀ (a : SlaveAddr) (p : StartPolicy) (h : ComplPolicy) (s : State), s.st.op = .none →
    (s.argBuf = 0 → exec (.qwrite a p h) s = .next { s with rsp := ⟨.notReady, 0, 0⟩ }) ∧
    (s.argBuf ≠ 0 → s.st.state ≠ .idle → s.st.state ≠ .halted →
      exec (.qwrite a p h) s = .next { s with rsp := ⟨.notReady, 0, 0⟩ }) ∧
    (s.argBuf ≠ 0 → s.st.state = .idle → s.scb.busy = true → exec (.qwrite a p h) s =
      .next { s with rsp := ⟨.busBusy, 0, 0⟩, trace := s.trace ++ [.scbBusBusy true] }) ∧
    (s.argBuf ≠ 0 → s.st.state = .idle → s.scb.busy = false → exec (.qwrite a p h) s =
      .next { s with
        st := { s.st with
          wr := ⟨s.argBuf, s.argLen, 0⟩, ctl := ⟨p, h⟩, status := s.st.status &&& 0xFD
          dir := .write, haltCause := .none, stopPending := false, state := .addrWr, armed := .write
          dsrc := .txUnderflow }
        scb := { s.scb with pend := 0, tx := s.scb.tx ++ [a ++ 0#1] }
        rsp := ⟨.ok, 0, 0⟩
        trace := s.trace ++ [.scbBusBusy false, .scbClear 0xFF] ++
          (if p = .start then [.scbTx (a ++ 0#1), .scbCmd 0x01] else [.scbCmd 0x02, .scbTx (a ++ 0#1)]) }) ∧
    (s.argBuf ≠ 0 → s.st.state = .halted → exec (.qwrite a p h) s =
      .next { s with
        st := { s.st with
          wr := ⟨s.argBuf, s.argLen, 0⟩, ctl := ⟨p, h⟩, status := s.st.status &&& 0xF5
          dir := .write, haltCause := .none, stopPending := false, state := .addrWr, armed := .write
          dsrc := .txUnderflow }
        scb := { s.scb with pend := 0, tx := s.scb.tx ++ [a ++ 0#1] }
        rsp := ⟨.ok, 0, 0⟩
        trace := s.trace ++ [.scbClear 0xFF] ++
          (if s.st.dir = .read ∧ s.st.haltCause ≠ .addrNak then
            (if p = .start then [.scbTx (a ++ 0#1), .scbCmd 0x11] else [.scbCmd 0x12, .scbTx (a ++ 0#1)])
           else (if p = .start then [.scbTx (a ++ 0#1), .scbCmd 0x01] else [.scbCmd 0x02, .scbTx (a ++ 0#1)])) })

/-- R131, R132, R134: QREAD, from its guard to its arming, with the threshold at FIFO_DEPTH. -/
def Obligations.QueueReadIssue : Prop :=
  ∀ (a : SlaveAddr) (p : StartPolicy) (h : ComplPolicy) (s : State), s.st.op = .none →
    (s.argBuf = 0 → exec (.qread a p h) s = .next { s with rsp := ⟨.notReady, 0, 0⟩ }) ∧
    (s.argBuf ≠ 0 → s.st.state ≠ .idle → s.st.state ≠ .halted →
      exec (.qread a p h) s = .next { s with rsp := ⟨.notReady, 0, 0⟩ }) ∧
    (s.argBuf ≠ 0 → s.st.state = .idle → s.scb.busy = true → exec (.qread a p h) s =
      .next { s with rsp := ⟨.busBusy, 0, 0⟩, trace := s.trace ++ [.scbBusBusy true] }) ∧
    (s.argBuf ≠ 0 → s.st.state = .idle → s.scb.busy = false → exec (.qread a p h) s =
      .next { s with
        st := { s.st with
          rd := ⟨s.argBuf, s.argLen, 0⟩, ctl := ⟨p, h⟩, status := s.st.status &&& 0xFE
          dir := .read, haltCause := .none, stopPending := false, state := .addrRd, armed := .read
          dsrc := if s.argLen.toNat < Config.fifoDepth then .rxNotEmpty else .rxFull }
        scb := { s.scb with pend := 0, tx := s.scb.tx ++ [a ++ 1#1] }
        rsp := ⟨.ok, 0, 0⟩
        trace := s.trace ++ [.scbBusBusy false, .scbClear 0xFF] ++
          (if p = .start then [.scbTx (a ++ 1#1), .scbCmd 0x01] else [.scbCmd 0x02, .scbTx (a ++ 1#1)]) }) ∧
    (s.argBuf ≠ 0 → s.st.state = .halted → exec (.qread a p h) s =
      .next { s with
        st := { s.st with
          rd := ⟨s.argBuf, s.argLen, 0⟩, ctl := ⟨p, h⟩, status := s.st.status &&& 0xF6
          dir := .read, haltCause := .none, stopPending := false, state := .addrRd, armed := .read
          dsrc := if s.argLen.toNat < Config.fifoDepth then .rxNotEmpty else .rxFull }
        scb := { s.scb with pend := 0, tx := s.scb.tx ++ [a ++ 1#1] }
        rsp := ⟨.ok, 0, 0⟩
        trace := s.trace ++ [.scbClear 0xFF] ++
          (if s.st.dir = .read ∧ s.st.haltCause ≠ .addrNak then
            (if p = .start then [.scbTx (a ++ 1#1), .scbCmd 0x11] else [.scbCmd 0x12, .scbTx (a ++ 1#1)])
           else (if p = .start then [.scbTx (a ++ 1#1), .scbCmd 0x01] else [.scbCmd 0x02, .scbTx (a ++ 1#1)])) })

/-- R135: the interrupt path has a step exactly when a transfer is armed and a source its state watches is pending (a step that then
needs memory the platform does not have is stuck under a name of its own, R58). -/
def Obligations.InterruptPathEnabled : Prop :=
  ∀ (s : State) (rest : List Move), s.moves = .interrupt :: rest →
    (step s ≠ .fault (.noStep .interruptPath) ↔
      s.st.armed ≠ .none ∧
      ((s.st.stopPending = true ∧ s.scb.pend &&& 0x1C ≠ 0) ∨
       (s.st.stopPending = false ∧ (s.st.state = .addrWr ∨ s.st.state = .addrRd) ∧ s.scb.pend &&& 0x0F ≠ 0) ∨
       (s.st.stopPending = false ∧ s.st.state = .dataWr ∧ s.scb.pend &&& 0x8F ≠ 0) ∨
       (s.st.stopPending = false ∧ s.st.state = .dataRd ∧ s.st.dsrc = .rxNotEmpty ∧ s.scb.pend &&& 0x2C ≠ 0) ∨
       (s.st.stopPending = false ∧ s.st.state = .dataRd ∧ s.st.dsrc = .rxFull ∧ s.scb.pend &&& 0x4C ≠ 0) ∨
       (s.st.stopPending = false ∧ s.st.state = .dataRd ∧ s.st.dsrc = .txUnderflow ∧ s.scb.pend &&& 0x8C ≠ 0)))

/-- R136: address ACK of a buffered transfer; byte 0 of a write lies where the platform has memory (WriteFromHoleStuck says what happens
where it does not). -/
def Obligations.BufferedAddressAck : Prop :=
  ∀ (s : State) (rest : List Move), s.moves = .interrupt :: rest → s.st.stopPending = false →
    (s.st.state = .addrWr ∨ s.st.state = .addrRd) → s.scb.pend.getLsbD 0 = true →
    (∀ v : Byte, s.st.armed = .write → s.st.wr.len ≠ 0 → s.mem.read s.st.wr.buf = some v → step s =
      .next { s with
        moves := rest
        st := { s.st with state := .dataWr }
        scb := { s.scb with pend := s.scb.pend &&& 0x70, tx := s.scb.tx ++ [v] }
        trace := s.trace ++ [.scbPending s.scb.pend, .scbClear 0x0F, .memRead s.st.wr.buf v, .scbTx v,
          .scbClear 0x80] }) ∧
    (s.st.armed = .write → s.st.wr.len = 0 → step s =
      .next (complete { s with
        moves := rest
        st := { s.st with state := .dataWr }
        scb := { s.scb with pend := s.scb.pend &&& 0xF0 }
        trace := s.trace ++ [.scbPending s.scb.pend, .scbClear 0x0F] })) ∧
    (s.st.armed = .read → s.st.rd.len ≠ 0 → step s =
      .next { s with
        moves := rest
        st := { s.st with state := .dataRd }
        scb := { s.scb with pend := s.scb.pend &&& 0xF0 }
        trace := s.trace ++ [.scbPending s.scb.pend, .scbClear 0x0F] }) ∧
    (s.st.armed = .read → s.st.rd.len = 0 → step s =
      .next (complete { s with
        moves := rest
        st := { s.st with state := .dataRd }
        scb := { s.scb with pend := s.scb.pend &&& 0xF0 }
        trace := s.trace ++ [.scbPending s.scb.pend, .scbClear 0x0F] }))

/-- R137: address NACK of a buffered transfer. -/
def Obligations.BufferedAddressNack : Prop :=
  ∀ (s : State) (rest : List Move), s.moves = .interrupt :: rest → s.st.armed ≠ .none → s.st.stopPending = false →
    (s.st.state = .addrWr ∨ s.st.state = .addrRd) → s.scb.pend.getLsbD 0 = false → s.scb.pend.getLsbD 1 = true →
    step s = .next { s with
      moves := rest
      st := { s.st with state := .halted, haltCause := .addrNak, armed := .none, status := s.st.status ||| 0x18 }
      scb := { s.scb with pend := s.scb.pend &&& 0xF0 }
      trace := s.trace ++ [.scbPending s.scb.pend, .scbClear 0x0F] }

/-- R138: a data byte of a buffered write is ACKed; a next byte lies where the platform has memory (WriteFromHoleStuck says what happens
where it does not). -/
def Obligations.BufferedByteAcked : Prop :=
  ∀ (s : State) (rest : List Move), s.moves = .interrupt :: rest → s.st.armed ≠ .none → s.st.stopPending = false →
    s.st.state = .dataWr → s.scb.pend.getLsbD 0 = true →
    (s.st.wr.idx + 1 = s.st.wr.len → step s =
      .next (complete { s with
        moves := rest
        st := { s.st with wr := { s.st.wr with idx := s.st.wr.idx + 1 } }
        scb := { s.scb with pend := s.scb.pend &&& 0x70 }
        trace := s.trace ++ [.scbPending s.scb.pend, .scbClear 0x8F] })) ∧
    (∀ v : Byte, s.st.wr.idx + 1 ≠ s.st.wr.len →
      s.mem.read (s.st.wr.buf + (s.st.wr.idx + 1).setWidth 32) = some v → step s =
      .next { s with
        moves := rest
        st := { s.st with wr := { s.st.wr with idx := s.st.wr.idx + 1 } }
        scb := { s.scb with pend := s.scb.pend &&& 0x70, tx := s.scb.tx ++ [v] }
        trace := s.trace ++ [.scbPending s.scb.pend, .scbClear 0x8F,
          .memRead (s.st.wr.buf + (s.st.wr.idx + 1).setWidth 32) v, .scbTx v] })

/-- R139: a data byte of a buffered write is NACKed; it is not counted. -/
def Obligations.BufferedByteNacked : Prop :=
  ∀ (s : State) (rest : List Move), s.moves = .interrupt :: rest → s.st.armed ≠ .none → s.st.stopPending = false →
    s.st.state = .dataWr → s.scb.pend.getLsbD 0 = false → s.scb.pend.getLsbD 1 = true →
    step s = .next { s with
      moves := rest
      st := { s.st with state := .halted, haltCause := .dataNak, armed := .none, status := s.st.status ||| 0x28 }
      scb := { s.scb with pend := s.scb.pend &&& 0x70 }
      trace := s.trace ++ [.scbPending s.scb.pend, .scbClear 0x8F] }

/-- R140: TX underflow with no master outcome. -/
def Obligations.BufferedUnderflowAlone : Prop :=
  ∀ (s : State) (rest : List Move), s.moves = .interrupt :: rest → s.st.armed ≠ .none → s.st.stopPending = false →
    s.st.state = .dataWr → s.scb.pend &&& 0x0F = 0 → s.scb.pend.getLsbD 7 = true →
    step s = .next { s with
      moves := rest
      scb := { s.scb with pend := s.scb.pend &&& 0x7F }
      trace := s.trace ++ [.scbPending s.scb.pend, .scbClear 0x80] }

/-- R141: a buffered read drains `n = min(level, remaining)` bytes into the buffer, one after the other, and asks for the next or
completes. A fault pending beside the data is lost, by R204 item 1 and U7, with the mask log 25 (DEDUCED) gives. Memory is canonical and
admits the `n` addresses, and the index is within the length, as R40 item 1 has it. -/
def Obligations.BufferedReadDrains : Prop :=
  ∀ (s : State) (rest : List Move) (n : Nat), s.moves = .interrupt :: rest → s.st.armed ≠ .none →
    s.st.stopPending = false → s.st.state = .dataRd → s.st.dsrc ≠ .txUnderflow →
    s.scb.pend.getLsbD (sourceBit (dataSource s.st.dsrc)) = true →
    n = min s.scb.rx.length (s.st.rd.len.toNat - s.st.rd.idx.toNat) →
    s.mem.wf = true → s.st.rd.idx ≤ s.st.rd.len →
    (∀ k < n, s.mem.refuses (s.st.rd.buf + (s.st.rd.idx + BitVec.ofNat 16 k).setWidth 32).toNat = false) →
    ∃ (u : State),
      (step s = .next (
        if n = 0 then u
        else if u.st.rd.idx = u.st.rd.len then complete u
        else { u with
          trace := u.trace ++ [.scbCmd 0x08]
          st := { u.st with
            dsrc := if u.st.rd.len.toNat - u.st.rd.idx.toNat < Config.fifoDepth then .rxNotEmpty else u.st.dsrc } })) ∧
      u = { s with
        moves := rest
        st := { s.st with rd := { s.st.rd with idx := s.st.rd.idx + BitVec.ofNat 16 n } }
        scb := { s.scb with
          rx := s.scb.rx.drop n
          pend := s.scb.pend &&& (if s.st.dsrc = .rxNotEmpty then 0xD3 else 0xB3) }
        mem := u.mem
        trace := s.trace ++ [.scbPending s.scb.pend, .scbRxLevel s.scb.rx.length] ++
          ((List.range n).flatMap fun k =>
            [.scbRx (s.scb.rx.getD k 0),
             .memWrite (s.st.rd.buf + (s.st.rd.idx + BitVec.ofNat 16 k).setWidth 32) (s.scb.rx.getD k 0)]) ++
          [.scbClear (if s.scb.pend &&& 0x0C = 0 then (if s.st.dsrc = .rxNotEmpty then 0x20 else 0x40)
            else (if s.st.dsrc = .rxNotEmpty then 0x2C else 0x4C))] } ∧
      (∀ k < n, u.mem.read (s.st.rd.buf + (s.st.rd.idx + BitVec.ofNat 16 k).setWidth 32) = some (s.scb.rx.getD k 0)) ∧
      (∀ b : Addr, (∀ k < n, b ≠ s.st.rd.buf + (s.st.rd.idx + BitVec.ofNat 16 k).setWidth 32) →
        u.mem.read b = s.mem.read b)

/-- R58, U8, with the form of the stop of log 4 (DESIGN CHOICE) and log 23 (DEDUCED): a read step is stuck, and nothing of it happens, when
the platform has no memory for one of the `n = min(level, remaining)` bytes it drains; `k` is the first such byte. -/
def Obligations.ReadIntoHoleStuck : Prop :=
  ∀ (s : State) (rest : List Move) (k : Nat), s.moves = .interrupt :: rest → s.st.armed ≠ .none →
    s.st.stopPending = false → s.st.state = .dataRd → s.st.dsrc ≠ .txUnderflow →
    s.scb.pend.getLsbD (sourceBit (dataSource s.st.dsrc)) = true →
    k < min s.scb.rx.length (s.st.rd.len.toNat - s.st.rd.idx.toNat) →
    (∀ j < k, s.mem.read (s.st.rd.buf + (s.st.rd.idx + BitVec.ofNat 16 j).setWidth 32) ≠ none) →
    s.mem.read (s.st.rd.buf + (s.st.rd.idx + BitVec.ofNat 16 k).setWidth 32) = none →
    step s = .fault (.memoryRefused (s.st.rd.buf + (s.st.rd.idx + BitVec.ofNat 16 k).setWidth 32))

/-- R143: the Stop of a completed buffered transfer. -/
def Obligations.BufferedStopCompletes : Prop :=
  ∀ (s : State) (rest : List Move), s.moves = .interrupt :: rest → s.st.armed ≠ .none → s.st.stopPending = true →
    s.scb.pend.getLsbD 4 = true →
    step s = .next { s with
      moves := rest
      st := { s.st with
        status := s.st.status ||| (if s.st.armed = .write then 0x02 else 0x01)
        state := .idle, haltCause := .none, ctl := ⟨.start, .stop⟩, stopPending := false, armed := .none }
      scb := { s.scb with pend := s.scb.pend &&& 0xE3 }
      trace := s.trace ++ [.scbPending s.scb.pend, .scbClear 0x1C] }

/-- R144: a bus fault classified by the interrupt path, in each row of R135's table, with that row's mask. -/
def Obligations.InterruptPathFault : Prop :=
  ∀ (s : State) (rest : List Move) (kind : FaultKind), s.moves = .interrupt :: rest → s.st.armed ≠ .none →
    (kind = .arb → s.scb.pend.getLsbD 2 = true) →
    (kind = .bus → s.scb.pend.getLsbD 2 = false ∧ s.scb.pend.getLsbD 3 = true) →
    (s.st.stopPending = true → s.scb.pend.getLsbD 4 = false → step s =
      .next (faultRecover kind 0x1C .interruptPath
        { s with moves := rest, trace := s.trace ++ [.scbPending s.scb.pend] })) ∧
    (s.st.stopPending = false → (s.st.state = .addrWr ∨ s.st.state = .addrRd) → s.scb.pend &&& 0x03 = 0 → step s =
      .next (faultRecover kind 0x0F .interruptPath
        { s with moves := rest, trace := s.trace ++ [.scbPending s.scb.pend] })) ∧
    (s.st.stopPending = false → s.st.state = .dataWr → s.scb.pend &&& 0x03 = 0 → step s =
      .next (faultRecover kind 0x8F .interruptPath
        { s with moves := rest, trace := s.trace ++ [.scbPending s.scb.pend] })) ∧
    (s.st.stopPending = false → s.st.state = .dataRd → s.st.dsrc = .rxNotEmpty → s.scb.pend.getLsbD 5 = false → step s =
      .next (faultRecover kind 0x2C .interruptPath
        { s with moves := rest, trace := s.trace ++ [.scbPending s.scb.pend] })) ∧
    (s.st.stopPending = false → s.st.state = .dataRd → s.st.dsrc = .rxFull → s.scb.pend.getLsbD 6 = false → step s =
      .next (faultRecover kind 0x4C .interruptPath
        { s with moves := rest, trace := s.trace ++ [.scbPending s.scb.pend] })) ∧
    (s.st.stopPending = false → s.st.state = .dataRd → s.st.dsrc = .txUnderflow → s.scb.pend.getLsbD 7 = false → step s =
      .next (faultRecover kind 0x8C .interruptPath
        { s with moves := rest, trace := s.trace ++ [.scbPending s.scb.pend] }))

/-- R58, U8, with the form of the stop of log 4 (DESIGN CHOICE): a write step is stuck when the platform has no memory for the byte it
queues, byte 0 at the address ACK and byte `idx + 1` at a data ACK. -/
def Obligations.WriteFromHoleStuck : Prop :=
  ∀ (s : State) (rest : List Move), s.moves = .interrupt :: rest → s.st.stopPending = false →
    s.scb.pend.getLsbD 0 = true →
    (s.st.armed = .write → (s.st.state = .addrWr ∨ s.st.state = .addrRd) → s.st.wr.len ≠ 0 →
      s.mem.read s.st.wr.buf = none → step s = .fault (.memoryRefused s.st.wr.buf)) ∧
    (s.st.armed ≠ .none → s.st.state = .dataWr → s.st.wr.idx + 1 ≠ s.st.wr.len →
      s.mem.read (s.st.wr.buf + (s.st.wr.idx + 1).setWidth 32) = none →
      step s = .fault (.memoryRefused (s.st.wr.buf + (s.st.wr.idx + 1).setWidth 32)))

/-- R204 item 1, U7: a classification that is no fault leaves none of the sources it watched pending, so a watched source it did not choose
is lost. For a buffered read step this is the reading of log 25 (DEDUCED). -/
def Obligations.UnchosenSourcesAreLost : Prop :=
  ∀ (s t : State) (rest : List Move), step s = .next t →
    (s.moves = .resolve :: rest → ¬s.EntersFault .resolve →
      ∀ o ∈ waitOrder s.st.op, t.scb.pend.getLsbD (sourceBit o) = false) ∧
    (s.Inv → s.moves = .interrupt :: rest → ¬s.EntersFault .interrupt →
      ∀ w, interruptWatch s.st = some w → ∀ o ∈ w.order, t.scb.pend.getLsbD (sourceBit o) = false)

/-- R249: while a buffered transfer is armed, every second transaction command is refused NotReady and does nothing else. -/
def Obligations.ArmedEngineRefusesTransactions : Prop :=
  ∀ (s : State) (i : Instr), s.Inv → s.st.armed ≠ .none →
    ((∃ a r, i = .start a r) ∨ (∃ a r, i = .restart a r) ∨ (∃ d, i = .wrbyte d) ∨ (∃ k, i = .rdbyte k) ∨
      (∃ a p h, i = .qwrite a p h) ∨ (∃ a p h, i = .qread a p h)) →
    exec i s = .next { s with rsp := ⟨.notReady, 0, 0⟩ }

/-- R245: after CLRWBUF under a running buffered write, the next data ACK counts as byte 0 and queues byte 1. -/
def Obligations.ClearUnderRunningWrite : Prop :=
  ∀ (s t : State) (v : Byte), s.st.armed = .write → s.st.state = .dataWr → s.st.stopPending = false →
    1 < s.st.wr.len → s.mem.read (s.st.wr.buf + 1) = some v → exec .clrwbuf s = .next t →
    ∃ u, step { t with moves := [.interrupt], scb := { t.scb with pend := 0x01 } } = .next u ∧
      u.st.wr.idx = 1 ∧ u.scb.tx = s.scb.tx ++ [v] ∧ u.st.state = .dataWr

/-- R250: STOP disarms a buffered transfer at once; the counted bytes stay counted, no flag is set, and the Stop event ends it. -/
def Obligations.StopOverBufferedTransfer : Prop :=
  ∀ (s t : State), s.st.op = .none → s.st.armed ≠ .none → s.st.state ≠ .idle → exec .stop s = .next t →
    t.st.armed = .none ∧ t.st.stopPending = false ∧ t.st.wr = s.st.wr ∧ t.st.rd = s.st.rd ∧ t.st.status = s.st.status ∧
    step { t with moves := [.interrupt] } = .fault (.noStep .interruptPath) ∧
    ∃ u, step { t with moves := [.resolve], scb := { t.scb with pend := 0x10 } } = .next u ∧
      u.st.state = .idle ∧ u.rsp = ⟨.ok, 0, 0⟩ ∧ u.st.wr = s.st.wr ∧ u.st.rd = s.st.rd ∧ u.st.status = s.st.status

/-- R248: a stale ACK left pending is taken by the next wait that watches it. -/
def Obligations.StaleAckIsTaken : Prop :=
  ∀ (s t : State) (a : SlaveAddr) (r : Dir), s.st.op = .none → s.st.state = .idle → s.scb.busy = false →
    s.scb.pend.getLsbD 0 = true → exec (.start a r) s = .next t →
    ∃ u, step { t with moves := [.resolve] } = .next u ∧ u.rsp = ⟨.ok, 0, 0⟩ ∧
      u.st.state = (if r = .read then .dataRd else .dataWr)

/-! ### The workaround and the accessors -/

/-- R170: RSTWA in IDLE, in a read and in a write. The SCB after the soft reset of the write branch is any value (U6). -/
def Obligations.RestartWorkaround : Prop :=
  ∀ s : State, s.st.op = .none →
    (s.st.state = .idle → exec .rstwa s = .next { s with rsp := ⟨.ok, 0, 0⟩ }) ∧
    (s.st.state ≠ .idle → s.st.dir = .read → exec .rstwa s =
      .next { s with
        rsp := ⟨.ok, 0, 0⟩
        scb := { s.scb with en := true }
        line := ⟨false, .periph⟩
        trace := s.trace ++ [.csAcquire, .lineWrite false, .lineSetDriveMode .gpio, .scbEnable false, .lineWrite false,
          .delay Config.tLowUs, .lineWrite true, .delay Config.tHighUs, .lineWrite false, .delay Config.tLowUs,
          .scbEnable true, .lineSetDriveMode .periph, .scbCmd 0x01, .csRelease] }) ∧
    (s.st.state ≠ .idle → s.st.dir = .write → ∃ (scb : Scb) (n : Nat), exec .rstwa s =
      .next { s with
        rsp := ⟨.ok, 0, 0⟩
        scb := scb, freeCount := n
        line := { s.line with level := false }
        softResets := s.softResets + 1
        trace := s.trace ++ [.csAcquire, .lineWrite false, .scbSoftReset, .scbCmd 0x01, .csRelease] })

/-- R180, R181: the counts. -/
def Obligations.CountAccessors : Prop :=
  ∀ s : State, s.st.op = .none →
    exec .getwcnt s = .next { s with rsp := ⟨.ok, 0, s.st.wr.idx⟩ } ∧
    exec .getrcnt s = .next { s with rsp := ⟨.ok, 0, s.st.rd.idx⟩ }

/-- R182, R183: each clear resets its own index and its own completion flag, and nothing else. -/
def Obligations.BufferClears : Prop :=
  ∀ s : State, s.st.op = .none →
    exec .clrwbuf s = .next { s with
      rsp := ⟨.ok, 0, 0⟩
      st := { s.st with wr := { s.st.wr with idx := 0 }, status := s.st.status &&& 0xFD } } ∧
    exec .clrrbuf s = .next { s with
      rsp := ⟨.ok, 0, 0⟩
      st := { s.st with rd := { s.st.rd with idx := 0 }, status := s.st.status &&& 0xFE } }

/-- R184, R185: the status reads; a second immediate CLRSTAT returns the zero word in every ProtocolState. -/
def Obligations.StatusReads : Prop :=
  (∀ s : State, s.st.op = .none →
    exec .getstat s = .next { s with
      rsp := ⟨.ok, 0, 0#8 ++ (s.st.status ||| (if s.st.state = .idle then 0x00 else 0x04))⟩ }) ∧
  (∀ s : State, s.st.op = .none →
    exec .clrstat s = .next { s with rsp := ⟨.ok, 0, 0#8 ++ s.st.status⟩, st := { s.st with status := 0x00 } }) ∧
  (∀ s t : State, exec .clrstat s = .next t → ∃ u, exec .clrstat t = .next u ∧ u.rsp = ⟨.ok, 0, 0⟩)

/-! ### The environment, reset and the whole machine -/

/-- R36, agent E: each move of the SCB environment and when it has one (lowering a source: R210). Nothing but `scb` changes. -/
def Obligations.EnvironmentMoves : Prop :=
  ∀ (s : State) (rest : List Move),
    (∀ m, s.moves = .env (.raise m) :: rest →
      step s = .next { s with moves := rest, scb := { s.scb with pend := s.scb.pend ||| m } }) ∧
    (∀ m, s.moves = .env (.lower m) :: rest →
      step s = .next { s with moves := rest, scb := { s.scb with pend := s.scb.pend &&& ~~~m } }) ∧
    (∀ b, s.moves = .env (.rxPush b) :: rest → s.scb.rx.length < Config.fifoDepth →
      step s = .next { s with moves := rest, scb := { s.scb with rx := s.scb.rx ++ [b] } }) ∧
    (∀ b, s.moves = .env (.rxPush b) :: rest → Config.fifoDepth ≤ s.scb.rx.length →
      step s = .fault (.noStep .environment)) ∧
    (∀ b more, s.moves = .env .txPop :: rest → s.scb.tx = b :: more →
      step s = .next { s with moves := rest, scb := { s.scb with tx := more } }) ∧
    (s.moves = .env .txPop :: rest → s.scb.tx = [] → step s = .fault (.noStep .environment)) ∧
    (∀ v, s.moves = .env (.setBusy v) :: rest →
      step s = .next { s with moves := rest, scb := { s.scb with busy := v } })

/-- R39, R240: the reset values the spec gives, at State.reset and after driver initialisation in any state, which leaves the SCB, the
line, caller memory and the model's own fields alone (log 21). -/
def Obligations.ResetValues : Prop :=
  (State.reset.st = ⟨.idle, .write, .none, 0x00, ⟨.start, .stop⟩, ⟨0, 0, 0⟩, ⟨0, 0, 0⟩, .none, .txUnderflow, false, .none⟩ ∧
    State.reset.argBuf = 0 ∧ State.reset.argLen = 0 ∧ State.reset.rsp = ⟨.ok, 0, 0⟩ ∧ State.reset.trace = [] ∧
    State.reset.softResets = 0) ∧
  ∀ (s : State) (rest : List Move), s.moves = .driverInit :: rest →
    step s = .next { s with
      moves := rest, st := State.reset.st, argBuf := 0, argLen := 0, rsp := ⟨.ok, 0, 0⟩, trace := [], softResets := 0 }

/-- R40, with the model's additions (log 22), holds after reset. -/
def Obligations.InvAtReset : Prop := State.reset.Inv

/-- R40, with the model's additions (log 22): every step of every agent keeps it, from every state that has it. -/
def Obligations.StepKeepsInv : Prop :=
  ∀ s t : State, s.Inv → step s = .next t → t.Inv

/-- R252: in a quiescent state neither the foreground's resolve step nor the interrupt path has a step. -/
def Obligations.QuiescentHasNoEngineStep : Prop :=
  ∀ (s : State) (rest : List Move), s.Quiescent →
    (s.moves = .resolve :: rest → step s = .fault (.noStep .foreground)) ∧
    (s.moves = .interrupt :: rest → step s = .fault (.noStep .interruptPath))

/-- R186 and the guards of the other families: every command, in every state, answers a next state. -/
def Obligations.EveryCommandAnswers : Prop :=
  ∀ (i : Instr) (s : State), ∃ t, exec i s = .next t ∧ (t.st.op = .none →
    (∃ v, t.rsp = ⟨.ok, 0, v⟩) ∨ t.rsp = ⟨.notReady, 0, 0⟩ ∨ t.rsp = ⟨.busBusy, 0, 0⟩)

/-- The frame of all 14 commands, by R51, R27, R28, R29, R32, R91, R99, R132 and R170: what each leaves alone. Every byte of caller memory
reads as before; a field changes only in the commands that name it. -/
def Obligations.CommandFrames : Prop :=
  ∀ (i : Instr) (s t : State), exec i s = .next t →
    (∀ b : Addr, t.mem.read b = s.mem.read b) ∧
    t.argBuf = s.argBuf ∧ t.argLen = s.argLen ∧ t.readData = s.readData ∧ t.moves = s.moves ∧ t.scb.rx.length ≤
      max s.scb.rx.length Config.fifoDepth ∧
    ((∀ a p h, i ≠ .qwrite a p h) → t.st.wr.buf = s.st.wr.buf ∧ t.st.wr.len = s.st.wr.len ∧
      (i ≠ .clrwbuf → t.st.wr.idx = s.st.wr.idx)) ∧
    ((∀ a p h, i ≠ .qread a p h) → t.st.rd.buf = s.st.rd.buf ∧ t.st.rd.len = s.st.rd.len ∧
      (i ≠ .clrrbuf → t.st.rd.idx = s.st.rd.idx)) ∧
    ((∀ a p h, i ≠ .qwrite a p h) → (∀ a p h, i ≠ .qread a p h) →
      t.st.ctl = s.st.ctl ∧ t.st.dsrc = s.st.dsrc ∧ (i ≠ .stop → t.st.armed = s.st.armed ∧
        t.st.stopPending = s.st.stopPending) ∧
      (i ≠ .clrwbuf → i ≠ .clrrbuf → i ≠ .clrstat → t.st.status = s.st.status)) ∧
    (i ≠ .rstwa → t.line = s.line ∧ t.softResets = s.softResets ∧ t.freeCount = s.freeCount ∧ t.scb.rx = s.scb.rx ∧
      t.scb.busy = s.scb.busy ∧ t.scb.en = s.scb.en) ∧
    (i ≠ .rstwa → (∀ a p h, i ≠ .qwrite a p h) → (∀ a p h, i ≠ .qread a p h) →
      t.scb.pend = s.scb.pend ∧
      ((∀ a r, i ≠ .start a r) → (∀ a r, i ≠ .restart a r) → (∀ d, i ≠ .wrbyte d) → t.scb.tx = s.scb.tx)) ∧
    ((∀ a r, i ≠ .start a r) → (∀ a r, i ≠ .restart a r) → (∀ a p h, i ≠ .qwrite a p h) → (∀ a p h, i ≠ .qread a p h) →
      t.st.dir = s.st.dir ∧ ((∀ d, i ≠ .wrbyte d) → t.st.state = s.st.state ∧ t.st.haltCause = s.st.haltCause))

/-- R51: a step that is neither the caller's own store nor a read continuation leaves caller memory as it is; a read continuation
changes only bytes at indices it counts. -/
def Obligations.CallerMemoryTouchedOnlyByReads : Prop :=
  ∀ (s t : State) (m : Move) (rest : List Move), s.Inv → s.moves = m :: rest → step s = .next t →
    ((∀ a v, m ≠ .callerStore a v) → m ≠ .interrupt → t.mem = s.mem) ∧
    (m = .interrupt → s.st.armed ≠ .read → t.mem = s.mem) ∧
    (m = .interrupt → ∀ b : Addr,
      (∀ k, s.st.rd.idx.toNat ≤ k → k < t.st.rd.idx.toNat → b ≠ s.st.rd.buf + BitVec.ofNat 32 k) →
      t.mem.read b = s.mem.read b)

/-- R29, R212: an index falls only by an explicit clear, a new transfer setup or driver initialisation, and rises only in a step of the
interrupt path. -/
def Obligations.IndexFallsOnlyByClearOrSetup : Prop :=
  ∀ (s t : State) (m : Move) (rest : List Move), s.Inv → s.moves = m :: rest → step s = .next t →
    (t.st.wr.idx < s.st.wr.idx → m = .driverInit ∨ ∃ w i, m = .hostWrite 0x0 4 w ∧ decode w = .ok i ∧
      (i = .clrwbuf ∨ ∃ a p h, i = .qwrite a p h)) ∧
    (t.st.rd.idx < s.st.rd.idx → m = .driverInit ∨ ∃ w i, m = .hostWrite 0x0 4 w ∧ decode w = .ok i ∧
      (i = .clrrbuf ∨ ∃ a p h, i = .qread a p h)) ∧
    (s.st.wr.idx < t.st.wr.idx → m = .interrupt ∧ s.st.armed = .write) ∧
    (s.st.rd.idx < t.st.rd.idx → m = .interrupt ∧ s.st.armed = .read)

/-- R212: RSP is written only by the foreground's steps (a CMD write or a resolve), and by driver initialisation. -/
def Obligations.OnlyForegroundWritesRsp : Prop :=
  ∀ (s t : State) (m : Move) (rest : List Move), s.moves = m :: rest → step s = .next t →
    (∀ w, m ≠ .hostWrite 0x0 4 w) → m ≠ .resolve → m ≠ .driverInit → t.rsp = s.rsp

/-- R206, R170, R241: a soft reset happens in a step that classifies a fault, which ends in IDLE, or in RSTWA's write branch, which
changes no engine field: there once, in the count and in the trace, and in every other step not at all. -/
def Obligations.SoftResetsAreCounted : Prop :=
  ∀ (s t : State) (m : Move) (rest : List Move), s.moves = m :: rest → m ≠ .driverInit → step s = .next t →
    (¬s.EntersFault m ∧ ¬s.EntersWriteWorkaround m ∧ t.softResets = s.softResets ∧
      ∃ new, t.trace = s.trace ++ new ∧ Action.scbSoftReset ∉ new) ∨
    (s.EntersFault m ∧ t.softResets = s.softResets + 1 ∧
      (∃ mask, t.trace = s.trace ++
        [.scbPending s.scb.pend, .scbClear mask, .csAcquire, .scbSoftReset, .csRelease]) ∧
      t.st.state = .idle ∧ t.st.armed = .none ∧ t.st.op = .none ∧ t.st.wr = s.st.wr ∧ t.st.rd = s.st.rd ∧
      t.st.dir = s.st.dir) ∨
    (s.EntersWriteWorkaround m ∧ t.softResets = s.softResets + 1 ∧
      t.trace = s.trace ++ [.csAcquire, .lineWrite false, .scbSoftReset, .scbCmd 0x01, .csRelease] ∧ t.st = s.st)

/-- R78, R37: every step only appends to the trace, and the master commands in what it appends are the seven the engine issues. -/
def Obligations.OnlySevenMasterCommands : Prop :=
  ∀ (s t : State) (m : Move) (rest : List Move), s.moves = m :: rest → m ≠ .driverInit → step s = .next t →
    ∃ new, t.trace = s.trace ++ new ∧
      ∀ c, Action.scbCmd c ∈ new → c ∈ [(0x01 : CmdSet), 0x11, 0x02, 0x12, 0x04, 0x14, 0x08]

/-- R26, R184: XFER_INP is never stored: with R40 item 3, bit 2 of the word GETSTAT returns is set exactly when the state is not IDLE. -/
def Obligations.XferInpIsComputed : Prop :=
  ∀ s t : State, s.Inv → exec .getstat s = .next t → (t.rsp.value.getLsbD 2 = true ↔ s.st.state ≠ .idle)
end

