-- ==== Sys2Proof/Laws/Memory.lean ====
section
/-! SUPPORT. Caller memory: a read after a write, and that a write keeps the canonical form. -/

namespace Sys2Proof.Machine

theorem cellsRead_consCell (a b : Nat) (v : Byte) (rest : List Host.Cell) (h : b = a → cellsRead rest a = unlistedByte) :
    cellsRead (consCell a v rest) b = if b = a then v else cellsRead rest b := by
  unfold consCell
  split
  · split
    · next hv hb => rw [hb, h hb, hv]
    · rfl
  · rfl

/-- Below the bound of a canonical list nothing is listed. -/
theorem cellsRead_below {lo : Nat} {l : List Host.Cell} (h : cellsWfFrom lo l = true) {a : Nat} (ha : a < lo) :
    cellsRead l a = unlistedByte := by
  induction l generalizing lo with
  | nil => rfl
  | cons c rest ih =>
    obtain ⟨b, w⟩ := c
    simp only [cellsWfFrom, Bool.and_eq_true, decide_eq_true_eq] at h
    simp only [cellsRead]
    rw [if_neg (by omega)]
    exact ih h.2 (by omega)

theorem cellsWfFrom_mono {lo lo' : Nat} {l : List Host.Cell} (h : cellsWfFrom lo l = true) (hlo : lo' ≤ lo) :
    cellsWfFrom lo' l = true := by
  cases l with
  | nil => rfl
  | cons c rest =>
    obtain ⟨b, w⟩ := c
    simp only [cellsWfFrom, Bool.and_eq_true, decide_eq_true_eq] at h ⊢
    exact ⟨⟨by omega, h.1.2⟩, h.2⟩

/-- A byte read after a write: the byte written at that address, what was there elsewhere. -/
theorem cellsRead_cellsWrite {lo : Nat} {l : List Host.Cell} (h : cellsWfFrom lo l = true) (a b : Nat) (v : Byte) :
    cellsRead (cellsWrite l a v) b = if b = a then v else cellsRead l b := by
  induction l generalizing lo with
  | nil => exact cellsRead_consCell a b v [] (fun _ => rfl)
  | cons c rest ih =>
    obtain ⟨d, w⟩ := c
    have h0 := h
    simp only [cellsWfFrom, Bool.and_eq_true, decide_eq_true_eq] at h
    simp only [cellsWrite]
    split
    · next had =>
        have hwf : cellsWfFrom (a + 1) ((d, w) :: rest) = true := by
          simp only [cellsWfFrom, Bool.and_eq_true, decide_eq_true_eq]
          exact ⟨⟨by omega, h.1.2⟩, h.2⟩
        exact cellsRead_consCell a b v _ (fun _ => cellsRead_below hwf (by omega))
    · split
      · next hle heq =>
          subst heq
          rw [cellsRead_consCell a b v rest (fun _ => cellsRead_below h.2 (by omega))]
          simp only [cellsRead]
          split <;> simp_all
      · next hle hne =>
          simp only [cellsRead]
          split
          · next hb => rw [if_neg (by omega)]
          · exact ih h.2

theorem cellsWfFrom_consCell {lo a : Nat} (v : Byte) {rest : List Host.Cell} (hlo : lo ≤ a)
    (h : cellsWfFrom (a + 1) rest = true) : cellsWfFrom lo (consCell a v rest) = true := by
  unfold consCell
  split
  · exact cellsWfFrom_mono h (by omega)
  · next hv => simp [cellsWfFrom, hlo, hv, h]

theorem cellsWfFrom_cellsWrite {lo : Nat} {l : List Host.Cell} (h : cellsWfFrom lo l = true) {a : Nat} (v : Byte)
    (hlo : lo ≤ a) : cellsWfFrom lo (cellsWrite l a v) = true := by
  induction l generalizing lo with
  | nil => exact cellsWfFrom_consCell v hlo rfl
  | cons c rest ih =>
    obtain ⟨d, w⟩ := c
    have h0 := h
    simp only [cellsWfFrom, Bool.and_eq_true, decide_eq_true_eq] at h
    simp only [cellsWrite]
    split
    · next had =>
        refine cellsWfFrom_consCell v hlo ?_
        simp only [cellsWfFrom, Bool.and_eq_true, decide_eq_true_eq]
        exact ⟨⟨by omega, h.1.2⟩, h.2⟩
    · split
      · next hle heq => subst heq; exact cellsWfFrom_consCell v hlo h.2
      · next hle hne =>
          simp only [cellsWfFrom, Bool.and_eq_true, decide_eq_true_eq]
          exact ⟨h.1, ih h.2 (by omega)⟩

theorem mem_cellsWrite {l : List Host.Cell} {a : Nat} {v : Byte} {c : Host.Cell} (h : c ∈ cellsWrite l a v) :
    c.1 = a ∨ c ∈ l := by
  have cons (rest : List Host.Cell) (hc : c ∈ consCell a v rest) : c.1 = a ∨ c ∈ rest := by
    unfold consCell at hc
    split at hc
    · exact .inr hc
    · rcases List.mem_cons.mp hc with rfl | hc
      · exact .inl rfl
      · exact .inr hc
  induction l with
  | nil => exact cons [] h
  | cons d rest ih =>
    obtain ⟨b, w⟩ := d
    simp only [cellsWrite] at h
    split at h
    · exact cons _ h
    · split at h
      · exact (cons rest h).imp_right (List.mem_cons_of_mem _)
      · rcases List.mem_cons.mp h with rfl | h
        · exact .inr List.mem_cons_self
        · exact (ih h).imp_right (List.mem_cons_of_mem _)

/-- A byte reads as none exactly where the platform has no memory. -/
theorem Memory.read_eq_none {m : Memory} {a : Addr} : m.read a = none ↔ m.refuses a.toNat = true := by
  unfold Memory.read; split <;> simp_all

/-- A write is refused exactly where a read is. -/
theorem Memory.write_eq_none {m : Memory} {a : Addr} {v : Byte} : m.write a v = none ↔ m.read a = none := by
  unfold Memory.read Memory.write; split <;> simp

/-- What a write can answer: it is refused at a hole, else the cells are those of cellsWrite. -/
theorem Memory.write_cases {m m' : Memory} {a : Addr} {v : Byte} (h : m.write a v = some m') :
    m.refuses a.toNat = false ∧ m' = { m with cells := cellsWrite m.cells a.toNat v } := by
  unfold Memory.write at h
  split at h
  · cases h
  · next hr => exact ⟨by simpa using hr, (Option.some.inj h).symm⟩

theorem Memory.write_holes {m m' : Memory} {a : Addr} {v : Byte} (h : m.write a v = some m') : m'.holes = m.holes := by
  rw [(Memory.write_cases h).2]

/-- A write adds no memory and takes none away. -/
theorem Memory.read_write_eq_none {m m' : Memory} {a : Addr} {v : Byte} (h : m.write a v = some m') (b : Addr) :
    m'.read b = none ↔ m.read b = none := by
  rw [Memory.read_eq_none, Memory.read_eq_none, Memory.refuses, Memory.refuses, Memory.write_holes h]

/-- A write keeps the canonical form. -/
theorem Memory.wf_write {m m' : Memory} {a : Addr} {v : Byte} (hm : m.wf = true) (h : m.write a v = some m') :
    m'.wf = true := by
  obtain ⟨hr, rfl⟩ := Memory.write_cases h
  simp only [Memory.wf, Bool.and_eq_true, List.all_eq_true, decide_eq_true_eq, Bool.not_eq_true'] at hm ⊢
  refine ⟨cellsWfFrom_cellsWrite hm.1 v (Nat.zero_le _), fun c hc => ?_⟩
  rcases mem_cellsWrite hc with h1 | h1
  · rw [h1]; exact ⟨a.isLt, hr⟩
  · exact hm.2 c h1

/-- Reading after a write: the byte written there, and every other byte as it was. -/
theorem Memory.read_write {m m' : Memory} {a : Addr} {v : Byte} (hm : m.wf = true) (h : m.write a v = some m') (b : Addr) :
    m'.read b = if b = a then some v else m.read b := by
  obtain ⟨hr, rfl⟩ := Memory.write_cases h
  simp only [Memory.wf, Bool.and_eq_true] at hm
  have hx := cellsRead_cellsWrite hm.1 a.toNat b.toNat v
  have href : Memory.refuses { m with cells := cellsWrite m.cells a.toNat v } b.toNat = m.refuses b.toNat := rfl
  simp only [Memory.read, href]
  by_cases hb : b = a
  · subst hb; rw [if_pos rfl, hr]; simp [hx]
  · have hne : b.toNat ≠ a.toNat := fun hh => hb (BitVec.eq_of_toNat_eq hh)
    rw [if_neg hne] at hx
    rw [if_neg hb, hx]

end Sys2Proof.Machine
end

