-- ==== Sys2Proof/Laws/State.lean ====
section
/-! SUPPORT. One lemma per field of State for each primitive update, so that no later proof unfolds a record update. -/

namespace Sys2Proof.Machine

variable (s : State)

@[simp] theorem record_st (x : Action) : (record x s).st = s.st := rfl
@[simp] theorem record_argBuf (x : Action) : (record x s).argBuf = s.argBuf := rfl
@[simp] theorem record_argLen (x : Action) : (record x s).argLen = s.argLen := rfl
@[simp] theorem record_rsp (x : Action) : (record x s).rsp = s.rsp := rfl
@[simp] theorem record_scb (x : Action) : (record x s).scb = s.scb := rfl
@[simp] theorem record_line (x : Action) : (record x s).line = s.line := rfl
@[simp] theorem record_mem (x : Action) : (record x s).mem = s.mem := rfl
@[simp] theorem record_trace (x : Action) : (record x s).trace = s.trace ++ [x] := rfl
@[simp] theorem record_softResets (x : Action) : (record x s).softResets = s.softResets := rfl
@[simp] theorem record_readData (x : Action) : (record x s).readData = s.readData := rfl
@[simp] theorem record_freeCount (x : Action) : (record x s).freeCount = s.freeCount := rfl
@[simp] theorem record_moves (x : Action) : (record x s).moves = s.moves := rfl

@[simp] theorem scbTx_st (b : Byte) : (scbTx b s).st = s.st := rfl
@[simp] theorem scbTx_argBuf (b : Byte) : (scbTx b s).argBuf = s.argBuf := rfl
@[simp] theorem scbTx_argLen (b : Byte) : (scbTx b s).argLen = s.argLen := rfl
@[simp] theorem scbTx_rsp (b : Byte) : (scbTx b s).rsp = s.rsp := rfl
@[simp] theorem scbTx_scb (b : Byte) : (scbTx b s).scb = { s.scb with tx := s.scb.tx ++ [b] } := rfl
@[simp] theorem scbTx_line (b : Byte) : (scbTx b s).line = s.line := rfl
@[simp] theorem scbTx_mem (b : Byte) : (scbTx b s).mem = s.mem := rfl
@[simp] theorem scbTx_trace (b : Byte) : (scbTx b s).trace = s.trace ++ [.scbTx b] := rfl
@[simp] theorem scbTx_softResets (b : Byte) : (scbTx b s).softResets = s.softResets := rfl
@[simp] theorem scbTx_readData (b : Byte) : (scbTx b s).readData = s.readData := rfl
@[simp] theorem scbTx_freeCount (b : Byte) : (scbTx b s).freeCount = s.freeCount := rfl
@[simp] theorem scbTx_moves (b : Byte) : (scbTx b s).moves = s.moves := rfl

@[simp] theorem scbCmd_st (c : CmdSet) : (scbCmd c s).st = s.st := rfl
@[simp] theorem scbCmd_argBuf (c : CmdSet) : (scbCmd c s).argBuf = s.argBuf := rfl
@[simp] theorem scbCmd_argLen (c : CmdSet) : (scbCmd c s).argLen = s.argLen := rfl
@[simp] theorem scbCmd_rsp (c : CmdSet) : (scbCmd c s).rsp = s.rsp := rfl
@[simp] theorem scbCmd_scb (c : CmdSet) : (scbCmd c s).scb = s.scb := rfl
@[simp] theorem scbCmd_line (c : CmdSet) : (scbCmd c s).line = s.line := rfl
@[simp] theorem scbCmd_mem (c : CmdSet) : (scbCmd c s).mem = s.mem := rfl
@[simp] theorem scbCmd_trace (c : CmdSet) : (scbCmd c s).trace = s.trace ++ [.scbCmd c] := rfl
@[simp] theorem scbCmd_softResets (c : CmdSet) : (scbCmd c s).softResets = s.softResets := rfl
@[simp] theorem scbCmd_readData (c : CmdSet) : (scbCmd c s).readData = s.readData := rfl
@[simp] theorem scbCmd_freeCount (c : CmdSet) : (scbCmd c s).freeCount = s.freeCount := rfl
@[simp] theorem scbCmd_moves (c : CmdSet) : (scbCmd c s).moves = s.moves := rfl

@[simp] theorem scbClear_st (m : Byte) : (scbClear m s).st = s.st := rfl
@[simp] theorem scbClear_argBuf (m : Byte) : (scbClear m s).argBuf = s.argBuf := rfl
@[simp] theorem scbClear_argLen (m : Byte) : (scbClear m s).argLen = s.argLen := rfl
@[simp] theorem scbClear_rsp (m : Byte) : (scbClear m s).rsp = s.rsp := rfl
@[simp] theorem scbClear_scb (m : Byte) : (scbClear m s).scb = { s.scb with pend := s.scb.pend &&& ~~~m } := rfl
@[simp] theorem scbClear_line (m : Byte) : (scbClear m s).line = s.line := rfl
@[simp] theorem scbClear_mem (m : Byte) : (scbClear m s).mem = s.mem := rfl
@[simp] theorem scbClear_trace (m : Byte) : (scbClear m s).trace = s.trace ++ [.scbClear m] := rfl
@[simp] theorem scbClear_softResets (m : Byte) : (scbClear m s).softResets = s.softResets := rfl
@[simp] theorem scbClear_readData (m : Byte) : (scbClear m s).readData = s.readData := rfl
@[simp] theorem scbClear_freeCount (m : Byte) : (scbClear m s).freeCount = s.freeCount := rfl
@[simp] theorem scbClear_moves (m : Byte) : (scbClear m s).moves = s.moves := rfl

@[simp] theorem scbPending_st : (scbPending s).st = s.st := rfl
@[simp] theorem scbPending_argBuf : (scbPending s).argBuf = s.argBuf := rfl
@[simp] theorem scbPending_argLen : (scbPending s).argLen = s.argLen := rfl
@[simp] theorem scbPending_rsp : (scbPending s).rsp = s.rsp := rfl
@[simp] theorem scbPending_scb : (scbPending s).scb = s.scb := rfl
@[simp] theorem scbPending_line : (scbPending s).line = s.line := rfl
@[simp] theorem scbPending_mem : (scbPending s).mem = s.mem := rfl
@[simp] theorem scbPending_trace : (scbPending s).trace = s.trace ++ [.scbPending s.scb.pend] := rfl
@[simp] theorem scbPending_softResets : (scbPending s).softResets = s.softResets := rfl
@[simp] theorem scbPending_readData : (scbPending s).readData = s.readData := rfl
@[simp] theorem scbPending_freeCount : (scbPending s).freeCount = s.freeCount := rfl
@[simp] theorem scbPending_moves : (scbPending s).moves = s.moves := rfl

@[simp] theorem scbBusBusy_st : (scbBusBusy s).st = s.st := rfl
@[simp] theorem scbBusBusy_argBuf : (scbBusBusy s).argBuf = s.argBuf := rfl
@[simp] theorem scbBusBusy_argLen : (scbBusBusy s).argLen = s.argLen := rfl
@[simp] theorem scbBusBusy_rsp : (scbBusBusy s).rsp = s.rsp := rfl
@[simp] theorem scbBusBusy_scb : (scbBusBusy s).scb = s.scb := rfl
@[simp] theorem scbBusBusy_line : (scbBusBusy s).line = s.line := rfl
@[simp] theorem scbBusBusy_mem : (scbBusBusy s).mem = s.mem := rfl
@[simp] theorem scbBusBusy_trace : (scbBusBusy s).trace = s.trace ++ [.scbBusBusy s.scb.busy] := rfl
@[simp] theorem scbBusBusy_softResets : (scbBusBusy s).softResets = s.softResets := rfl
@[simp] theorem scbBusBusy_readData : (scbBusBusy s).readData = s.readData := rfl
@[simp] theorem scbBusBusy_freeCount : (scbBusBusy s).freeCount = s.freeCount := rfl
@[simp] theorem scbBusBusy_moves : (scbBusBusy s).moves = s.moves := rfl

@[simp] theorem scbEnable_st (e : Bool) : (scbEnable e s).st = s.st := rfl
@[simp] theorem scbEnable_argBuf (e : Bool) : (scbEnable e s).argBuf = s.argBuf := rfl
@[simp] theorem scbEnable_argLen (e : Bool) : (scbEnable e s).argLen = s.argLen := rfl
@[simp] theorem scbEnable_rsp (e : Bool) : (scbEnable e s).rsp = s.rsp := rfl
@[simp] theorem scbEnable_scb (e : Bool) : (scbEnable e s).scb = { s.scb with en := e } := rfl
@[simp] theorem scbEnable_line (e : Bool) : (scbEnable e s).line = s.line := rfl
@[simp] theorem scbEnable_mem (e : Bool) : (scbEnable e s).mem = s.mem := rfl
@[simp] theorem scbEnable_trace (e : Bool) : (scbEnable e s).trace = s.trace ++ [.scbEnable e] := rfl
@[simp] theorem scbEnable_softResets (e : Bool) : (scbEnable e s).softResets = s.softResets := rfl
@[simp] theorem scbEnable_readData (e : Bool) : (scbEnable e s).readData = s.readData := rfl
@[simp] theorem scbEnable_freeCount (e : Bool) : (scbEnable e s).freeCount = s.freeCount := rfl
@[simp] theorem scbEnable_moves (e : Bool) : (scbEnable e s).moves = s.moves := rfl

@[simp] theorem scbRxLevel_st : (scbRxLevel s).st = s.st := rfl
@[simp] theorem scbRxLevel_argBuf : (scbRxLevel s).argBuf = s.argBuf := rfl
@[simp] theorem scbRxLevel_argLen : (scbRxLevel s).argLen = s.argLen := rfl
@[simp] theorem scbRxLevel_rsp : (scbRxLevel s).rsp = s.rsp := rfl
@[simp] theorem scbRxLevel_scb : (scbRxLevel s).scb = s.scb := rfl
@[simp] theorem scbRxLevel_line : (scbRxLevel s).line = s.line := rfl
@[simp] theorem scbRxLevel_mem : (scbRxLevel s).mem = s.mem := rfl
@[simp] theorem scbRxLevel_trace : (scbRxLevel s).trace = s.trace ++ [.scbRxLevel s.scb.rx.length] := rfl
@[simp] theorem scbRxLevel_softResets : (scbRxLevel s).softResets = s.softResets := rfl
@[simp] theorem scbRxLevel_readData : (scbRxLevel s).readData = s.readData := rfl
@[simp] theorem scbRxLevel_freeCount : (scbRxLevel s).freeCount = s.freeCount := rfl
@[simp] theorem scbRxLevel_moves : (scbRxLevel s).moves = s.moves := rfl

@[simp] theorem scbSoftReset_st : (scbSoftReset s).st = s.st := rfl
@[simp] theorem scbSoftReset_argBuf : (scbSoftReset s).argBuf = s.argBuf := rfl
@[simp] theorem scbSoftReset_argLen : (scbSoftReset s).argLen = s.argLen := rfl
@[simp] theorem scbSoftReset_rsp : (scbSoftReset s).rsp = s.rsp := rfl
@[simp] theorem scbSoftReset_scb : (scbSoftReset s).scb = softResetScb s.freeCount := rfl
@[simp] theorem scbSoftReset_line : (scbSoftReset s).line = s.line := rfl
@[simp] theorem scbSoftReset_mem : (scbSoftReset s).mem = s.mem := rfl
@[simp] theorem scbSoftReset_trace : (scbSoftReset s).trace = s.trace ++ [.scbSoftReset] := rfl
@[simp] theorem scbSoftReset_softResets : (scbSoftReset s).softResets = s.softResets + 1 := rfl
@[simp] theorem scbSoftReset_readData : (scbSoftReset s).readData = s.readData := rfl
@[simp] theorem scbSoftReset_freeCount : (scbSoftReset s).freeCount = s.freeCount + 1 := rfl
@[simp] theorem scbSoftReset_moves : (scbSoftReset s).moves = s.moves := rfl

@[simp] theorem lineWrite_st (l : Bool) : (lineWrite l s).st = s.st := rfl
@[simp] theorem lineWrite_argBuf (l : Bool) : (lineWrite l s).argBuf = s.argBuf := rfl
@[simp] theorem lineWrite_argLen (l : Bool) : (lineWrite l s).argLen = s.argLen := rfl
@[simp] theorem lineWrite_rsp (l : Bool) : (lineWrite l s).rsp = s.rsp := rfl
@[simp] theorem lineWrite_scb (l : Bool) : (lineWrite l s).scb = s.scb := rfl
@[simp] theorem lineWrite_line (l : Bool) : (lineWrite l s).line = { s.line with level := l } := rfl
@[simp] theorem lineWrite_mem (l : Bool) : (lineWrite l s).mem = s.mem := rfl
@[simp] theorem lineWrite_trace (l : Bool) : (lineWrite l s).trace = s.trace ++ [.lineWrite l] := rfl
@[simp] theorem lineWrite_softResets (l : Bool) : (lineWrite l s).softResets = s.softResets := rfl
@[simp] theorem lineWrite_readData (l : Bool) : (lineWrite l s).readData = s.readData := rfl
@[simp] theorem lineWrite_freeCount (l : Bool) : (lineWrite l s).freeCount = s.freeCount := rfl
@[simp] theorem lineWrite_moves (l : Bool) : (lineWrite l s).moves = s.moves := rfl

@[simp] theorem lineSetDriveMode_st (m : DriveMode) : (lineSetDriveMode m s).st = s.st := rfl
@[simp] theorem lineSetDriveMode_argBuf (m : DriveMode) : (lineSetDriveMode m s).argBuf = s.argBuf := rfl
@[simp] theorem lineSetDriveMode_argLen (m : DriveMode) : (lineSetDriveMode m s).argLen = s.argLen := rfl
@[simp] theorem lineSetDriveMode_rsp (m : DriveMode) : (lineSetDriveMode m s).rsp = s.rsp := rfl
@[simp] theorem lineSetDriveMode_scb (m : DriveMode) : (lineSetDriveMode m s).scb = s.scb := rfl
@[simp] theorem lineSetDriveMode_line (m : DriveMode) : (lineSetDriveMode m s).line = { s.line with mode := m } := rfl
@[simp] theorem lineSetDriveMode_mem (m : DriveMode) : (lineSetDriveMode m s).mem = s.mem := rfl
@[simp] theorem lineSetDriveMode_trace (m : DriveMode) : (lineSetDriveMode m s).trace = s.trace ++ [.lineSetDriveMode m] := rfl
@[simp] theorem lineSetDriveMode_softResets (m : DriveMode) : (lineSetDriveMode m s).softResets = s.softResets := rfl
@[simp] theorem lineSetDriveMode_readData (m : DriveMode) : (lineSetDriveMode m s).readData = s.readData := rfl
@[simp] theorem lineSetDriveMode_freeCount (m : DriveMode) : (lineSetDriveMode m s).freeCount = s.freeCount := rfl
@[simp] theorem lineSetDriveMode_moves (m : DriveMode) : (lineSetDriveMode m s).moves = s.moves := rfl

@[simp] theorem csAcquire_st : (csAcquire s).st = s.st := rfl
@[simp] theorem csAcquire_argBuf : (csAcquire s).argBuf = s.argBuf := rfl
@[simp] theorem csAcquire_argLen : (csAcquire s).argLen = s.argLen := rfl
@[simp] theorem csAcquire_rsp : (csAcquire s).rsp = s.rsp := rfl
@[simp] theorem csAcquire_scb : (csAcquire s).scb = s.scb := rfl
@[simp] theorem csAcquire_line : (csAcquire s).line = s.line := rfl
@[simp] theorem csAcquire_mem : (csAcquire s).mem = s.mem := rfl
@[simp] theorem csAcquire_trace : (csAcquire s).trace = s.trace ++ [.csAcquire] := rfl
@[simp] theorem csAcquire_softResets : (csAcquire s).softResets = s.softResets := rfl
@[simp] theorem csAcquire_readData : (csAcquire s).readData = s.readData := rfl
@[simp] theorem csAcquire_freeCount : (csAcquire s).freeCount = s.freeCount := rfl
@[simp] theorem csAcquire_moves : (csAcquire s).moves = s.moves := rfl

@[simp] theorem csRelease_st : (csRelease s).st = s.st := rfl
@[simp] theorem csRelease_argBuf : (csRelease s).argBuf = s.argBuf := rfl
@[simp] theorem csRelease_argLen : (csRelease s).argLen = s.argLen := rfl
@[simp] theorem csRelease_rsp : (csRelease s).rsp = s.rsp := rfl
@[simp] theorem csRelease_scb : (csRelease s).scb = s.scb := rfl
@[simp] theorem csRelease_line : (csRelease s).line = s.line := rfl
@[simp] theorem csRelease_mem : (csRelease s).mem = s.mem := rfl
@[simp] theorem csRelease_trace : (csRelease s).trace = s.trace ++ [.csRelease] := rfl
@[simp] theorem csRelease_softResets : (csRelease s).softResets = s.softResets := rfl
@[simp] theorem csRelease_readData : (csRelease s).readData = s.readData := rfl
@[simp] theorem csRelease_freeCount : (csRelease s).freeCount = s.freeCount := rfl
@[simp] theorem csRelease_moves : (csRelease s).moves = s.moves := rfl

@[simp] theorem delay_st (us : Nat) : (delay us s).st = s.st := rfl
@[simp] theorem delay_argBuf (us : Nat) : (delay us s).argBuf = s.argBuf := rfl
@[simp] theorem delay_argLen (us : Nat) : (delay us s).argLen = s.argLen := rfl
@[simp] theorem delay_rsp (us : Nat) : (delay us s).rsp = s.rsp := rfl
@[simp] theorem delay_scb (us : Nat) : (delay us s).scb = s.scb := rfl
@[simp] theorem delay_line (us : Nat) : (delay us s).line = s.line := rfl
@[simp] theorem delay_mem (us : Nat) : (delay us s).mem = s.mem := rfl
@[simp] theorem delay_trace (us : Nat) : (delay us s).trace = s.trace ++ [.delay us] := rfl
@[simp] theorem delay_softResets (us : Nat) : (delay us s).softResets = s.softResets := rfl
@[simp] theorem delay_readData (us : Nat) : (delay us s).readData = s.readData := rfl
@[simp] theorem delay_freeCount (us : Nat) : (delay us s).freeCount = s.freeCount := rfl
@[simp] theorem delay_moves (us : Nat) : (delay us s).moves = s.moves := rfl

@[simp] theorem respond_st (c : ResultCode) (d : Byte) (v : BitVec 16) : (respond c d v s).st = { s.st with op := .none } := rfl
@[simp] theorem respond_argBuf (c : ResultCode) (d : Byte) (v : BitVec 16) : (respond c d v s).argBuf = s.argBuf := rfl
@[simp] theorem respond_argLen (c : ResultCode) (d : Byte) (v : BitVec 16) : (respond c d v s).argLen = s.argLen := rfl
@[simp] theorem respond_rsp (c : ResultCode) (d : Byte) (v : BitVec 16) : (respond c d v s).rsp = ⟨c, d, v⟩ := rfl
@[simp] theorem respond_scb (c : ResultCode) (d : Byte) (v : BitVec 16) : (respond c d v s).scb = s.scb := rfl
@[simp] theorem respond_line (c : ResultCode) (d : Byte) (v : BitVec 16) : (respond c d v s).line = s.line := rfl
@[simp] theorem respond_mem (c : ResultCode) (d : Byte) (v : BitVec 16) : (respond c d v s).mem = s.mem := rfl
@[simp] theorem respond_trace (c : ResultCode) (d : Byte) (v : BitVec 16) : (respond c d v s).trace = s.trace := rfl
@[simp] theorem respond_softResets (c : ResultCode) (d : Byte) (v : BitVec 16) : (respond c d v s).softResets = s.softResets := rfl
@[simp] theorem respond_readData (c : ResultCode) (d : Byte) (v : BitVec 16) : (respond c d v s).readData = s.readData := rfl
@[simp] theorem respond_freeCount (c : ResultCode) (d : Byte) (v : BitVec 16) : (respond c d v s).freeCount = s.freeCount := rfl
@[simp] theorem respond_moves (c : ResultCode) (d : Byte) (v : BitVec 16) : (respond c d v s).moves = s.moves := rfl

@[simp] theorem beginWait_st (w : Wait) : (beginWait w s).st = { s.st with op := w } := rfl
@[simp] theorem beginWait_argBuf (w : Wait) : (beginWait w s).argBuf = s.argBuf := rfl
@[simp] theorem beginWait_argLen (w : Wait) : (beginWait w s).argLen = s.argLen := rfl
@[simp] theorem beginWait_rsp (w : Wait) : (beginWait w s).rsp = s.rsp := rfl
@[simp] theorem beginWait_scb (w : Wait) : (beginWait w s).scb = s.scb := rfl
@[simp] theorem beginWait_line (w : Wait) : (beginWait w s).line = s.line := rfl
@[simp] theorem beginWait_mem (w : Wait) : (beginWait w s).mem = s.mem := rfl
@[simp] theorem beginWait_trace (w : Wait) : (beginWait w s).trace = s.trace := rfl
@[simp] theorem beginWait_softResets (w : Wait) : (beginWait w s).softResets = s.softResets := rfl
@[simp] theorem beginWait_readData (w : Wait) : (beginWait w s).readData = s.readData := rfl
@[simp] theorem beginWait_freeCount (w : Wait) : (beginWait w s).freeCount = s.freeCount := rfl
@[simp] theorem beginWait_moves (w : Wait) : (beginWait w s).moves = s.moves := rfl

@[simp] theorem endWait_st : (endWait s).st = { s.st with op := .none } := rfl
@[simp] theorem endWait_argBuf : (endWait s).argBuf = s.argBuf := rfl
@[simp] theorem endWait_argLen : (endWait s).argLen = s.argLen := rfl
@[simp] theorem endWait_rsp : (endWait s).rsp = s.rsp := rfl
@[simp] theorem endWait_scb : (endWait s).scb = s.scb := rfl
@[simp] theorem endWait_line : (endWait s).line = s.line := rfl
@[simp] theorem endWait_mem : (endWait s).mem = s.mem := rfl
@[simp] theorem endWait_trace : (endWait s).trace = s.trace := rfl
@[simp] theorem endWait_softResets : (endWait s).softResets = s.softResets := rfl
@[simp] theorem endWait_readData : (endWait s).readData = s.readData := rfl
@[simp] theorem endWait_freeCount : (endWait s).freeCount = s.freeCount := rfl
@[simp] theorem endWait_moves : (endWait s).moves = s.moves := rfl

@[simp] theorem haltWith_st (c : HaltCause) : (haltWith c s).st = { s.st with state := .halted, haltCause := c } := rfl
@[simp] theorem haltWith_argBuf (c : HaltCause) : (haltWith c s).argBuf = s.argBuf := rfl
@[simp] theorem haltWith_argLen (c : HaltCause) : (haltWith c s).argLen = s.argLen := rfl
@[simp] theorem haltWith_rsp (c : HaltCause) : (haltWith c s).rsp = s.rsp := rfl
@[simp] theorem haltWith_scb (c : HaltCause) : (haltWith c s).scb = s.scb := rfl
@[simp] theorem haltWith_line (c : HaltCause) : (haltWith c s).line = s.line := rfl
@[simp] theorem haltWith_mem (c : HaltCause) : (haltWith c s).mem = s.mem := rfl
@[simp] theorem haltWith_trace (c : HaltCause) : (haltWith c s).trace = s.trace := rfl
@[simp] theorem haltWith_softResets (c : HaltCause) : (haltWith c s).softResets = s.softResets := rfl
@[simp] theorem haltWith_readData (c : HaltCause) : (haltWith c s).readData = s.readData := rfl
@[simp] theorem haltWith_freeCount (c : HaltCause) : (haltWith c s).freeCount = s.freeCount := rfl
@[simp] theorem haltWith_moves (c : HaltCause) : (haltWith c s).moves = s.moves := rfl

@[simp] theorem enterAddressPhase_st (r : Dir) : (enterAddressPhase r s).st = { s.st with dir := r, state := addrState r, haltCause := .none } := rfl
@[simp] theorem enterAddressPhase_argBuf (r : Dir) : (enterAddressPhase r s).argBuf = s.argBuf := rfl
@[simp] theorem enterAddressPhase_argLen (r : Dir) : (enterAddressPhase r s).argLen = s.argLen := rfl
@[simp] theorem enterAddressPhase_rsp (r : Dir) : (enterAddressPhase r s).rsp = s.rsp := rfl
@[simp] theorem enterAddressPhase_scb (r : Dir) : (enterAddressPhase r s).scb = s.scb := rfl
@[simp] theorem enterAddressPhase_line (r : Dir) : (enterAddressPhase r s).line = s.line := rfl
@[simp] theorem enterAddressPhase_mem (r : Dir) : (enterAddressPhase r s).mem = s.mem := rfl
@[simp] theorem enterAddressPhase_trace (r : Dir) : (enterAddressPhase r s).trace = s.trace := rfl
@[simp] theorem enterAddressPhase_softResets (r : Dir) : (enterAddressPhase r s).softResets = s.softResets := rfl
@[simp] theorem enterAddressPhase_readData (r : Dir) : (enterAddressPhase r s).readData = s.readData := rfl
@[simp] theorem enterAddressPhase_freeCount (r : Dir) : (enterAddressPhase r s).freeCount = s.freeCount := rfl
@[simp] theorem enterAddressPhase_moves (r : Dir) : (enterAddressPhase r s).moves = s.moves := rfl

@[simp] theorem forceIdle_st : (forceIdle s).st = { s.st with
      state := .idle, haltCause := .none, ctl := MasterControl.zero, armed := .none, stopPending := false, op := .none } := rfl
@[simp] theorem forceIdle_argBuf : (forceIdle s).argBuf = s.argBuf := rfl
@[simp] theorem forceIdle_argLen : (forceIdle s).argLen = s.argLen := rfl
@[simp] theorem forceIdle_rsp : (forceIdle s).rsp = s.rsp := rfl
@[simp] theorem forceIdle_scb : (forceIdle s).scb = s.scb := rfl
@[simp] theorem forceIdle_line : (forceIdle s).line = s.line := rfl
@[simp] theorem forceIdle_mem : (forceIdle s).mem = s.mem := rfl
@[simp] theorem forceIdle_trace : (forceIdle s).trace = s.trace := rfl
@[simp] theorem forceIdle_softResets : (forceIdle s).softResets = s.softResets := rfl
@[simp] theorem forceIdle_readData : (forceIdle s).readData = s.readData := rfl
@[simp] theorem forceIdle_freeCount : (forceIdle s).freeCount = s.freeCount := rfl
@[simp] theorem forceIdle_moves : (forceIdle s).moves = s.moves := rfl

@[simp] theorem addrIssue_st (a : SlaveAddr) (r : Dir) (k : StartPolicy) (o : Bool) : (addrIssue a r k o s).st = s.st := by
  cases k <;> rfl
@[simp] theorem addrIssue_argBuf (a : SlaveAddr) (r : Dir) (k : StartPolicy) (o : Bool) : (addrIssue a r k o s).argBuf = s.argBuf := by
  cases k <;> rfl
@[simp] theorem addrIssue_argLen (a : SlaveAddr) (r : Dir) (k : StartPolicy) (o : Bool) : (addrIssue a r k o s).argLen = s.argLen := by
  cases k <;> rfl
@[simp] theorem addrIssue_rsp (a : SlaveAddr) (r : Dir) (k : StartPolicy) (o : Bool) : (addrIssue a r k o s).rsp = s.rsp := by
  cases k <;> rfl
@[simp] theorem addrIssue_scb (a : SlaveAddr) (r : Dir) (k : StartPolicy) (o : Bool) : (addrIssue a r k o s).scb = { s.scb with tx := s.scb.tx ++ [wireByte a r] } := by
  cases k <;> rfl
@[simp] theorem addrIssue_line (a : SlaveAddr) (r : Dir) (k : StartPolicy) (o : Bool) : (addrIssue a r k o s).line = s.line := by
  cases k <;> rfl
@[simp] theorem addrIssue_mem (a : SlaveAddr) (r : Dir) (k : StartPolicy) (o : Bool) : (addrIssue a r k o s).mem = s.mem := by
  cases k <;> rfl
@[simp] theorem addrIssue_softResets (a : SlaveAddr) (r : Dir) (k : StartPolicy) (o : Bool) : (addrIssue a r k o s).softResets = s.softResets := by
  cases k <;> rfl
@[simp] theorem addrIssue_readData (a : SlaveAddr) (r : Dir) (k : StartPolicy) (o : Bool) : (addrIssue a r k o s).readData = s.readData := by
  cases k <;> rfl
@[simp] theorem addrIssue_freeCount (a : SlaveAddr) (r : Dir) (k : StartPolicy) (o : Bool) : (addrIssue a r k o s).freeCount = s.freeCount := by
  cases k <;> rfl
@[simp] theorem addrIssue_moves (a : SlaveAddr) (r : Dir) (k : StartPolicy) (o : Bool) : (addrIssue a r k o s).moves = s.moves := by
  cases k <;> rfl

@[simp] theorem addrIssue_start_trace (a : SlaveAddr) (r : Dir) (o : Bool) :
    (addrIssue a r .start o s).trace =
      s.trace ++ [.scbTx (wireByte a r), .scbCmd (withOwedNack o cmdStart)] := by
  simp [addrIssue]

@[simp] theorem addrIssue_restart_trace (a : SlaveAddr) (r : Dir) (o : Bool) :
    (addrIssue a r .restart o s).trace =
      s.trace ++ [.scbCmd (withOwedNack o cmdRestart), .scbTx (wireByte a r)] := by
  simp [addrIssue]

@[simp] theorem scbRx_st : (scbRx s).2.st = s.st := by
  unfold scbRx; split <;> rfl
@[simp] theorem scbRx_argBuf : (scbRx s).2.argBuf = s.argBuf := by
  unfold scbRx; split <;> rfl
@[simp] theorem scbRx_argLen : (scbRx s).2.argLen = s.argLen := by
  unfold scbRx; split <;> rfl
@[simp] theorem scbRx_rsp : (scbRx s).2.rsp = s.rsp := by
  unfold scbRx; split <;> rfl
@[simp] theorem scbRx_line : (scbRx s).2.line = s.line := by
  unfold scbRx; split <;> rfl
@[simp] theorem scbRx_mem : (scbRx s).2.mem = s.mem := by
  unfold scbRx; split <;> rfl
@[simp] theorem scbRx_softResets : (scbRx s).2.softResets = s.softResets := by
  unfold scbRx; split <;> rfl
@[simp] theorem scbRx_readData : (scbRx s).2.readData = s.readData := by
  unfold scbRx; split <;> rfl
@[simp] theorem scbRx_moves : (scbRx s).2.moves = s.moves := by
  unfold scbRx; split <;> rfl

@[simp] theorem complete_argBuf : (complete s).argBuf = s.argBuf := by
  unfold complete; split <;> rfl
@[simp] theorem complete_argLen : (complete s).argLen = s.argLen := by
  unfold complete; split <;> rfl
@[simp] theorem complete_rsp : (complete s).rsp = s.rsp := by
  unfold complete; split <;> rfl
@[simp] theorem complete_scb : (complete s).scb = s.scb := by
  unfold complete; split <;> rfl
@[simp] theorem complete_line : (complete s).line = s.line := by
  unfold complete; split <;> rfl
@[simp] theorem complete_mem : (complete s).mem = s.mem := by
  unfold complete; split <;> rfl
@[simp] theorem complete_softResets : (complete s).softResets = s.softResets := by
  unfold complete; split <;> rfl
@[simp] theorem complete_readData : (complete s).readData = s.readData := by
  unfold complete; split <;> rfl
@[simp] theorem complete_freeCount : (complete s).freeCount = s.freeCount := by
  unfold complete; split <;> rfl
@[simp] theorem complete_moves : (complete s).moves = s.moves := by
  unfold complete; split <;> rfl

end Sys2Proof.Machine
end

