-- ==== Sys2Proof/Laws/Ops.lean ====
section
/-! SUPPORT. What each shared operation and each agent's step can do, said once. -/

namespace Sys2Proof.Machine

/-! ### Classification -/

/-- A classified source is a member of its list, its bit is set, and no earlier member's is (R14). -/
theorem classify_some {p : Byte} {order : List Source} {o : Source} (h : classify p order = some o) :
    ∃ before after, order = before ++ o :: after ∧ p.getLsbD (sourceBit o) = true ∧
      ∀ x ∈ before, p.getLsbD (sourceBit x) = false := by
  induction order with
  | nil => cases h
  | cons x rest ih =>
    simp only [classify] at h
    split at h
    · next hx => cases h; exact ⟨[], rest, rfl, hx, by simp⟩
    · next hx =>
        obtain ⟨b, a, rfl, ho, hb⟩ := ih h
        exact ⟨x :: b, a, rfl, ho, by simpa using ⟨by simpa using hx, hb⟩⟩

theorem classify_mem {p : Byte} {order : List Source} {o : Source} (h : classify p order = some o) : o ∈ order := by
  obtain ⟨b, a, rfl, -, -⟩ := classify_some h
  simp

/-! ### Memory accesses of a step -/

theorem memRead_ok {a : Addr} {s : State} {r : Byte × State} (h : memRead a s = .ok r) :
    s.mem.read a = some r.1 ∧ r.2 = record (.memRead a r.1) s := by
  unfold memRead at h
  split at h
  · cases h
  · next v hv => cases h; exact ⟨hv, rfl⟩

theorem memWrite_ok {a : Addr} {v : Byte} {s t : State} (h : memWrite a v s = .ok t) :
    ∃ m, s.mem.write a v = some m ∧ t = record (.memWrite a v) { s with mem := m } := by
  unfold memWrite at h
  split at h
  · cases h
  · next m hm => cases h; exact ⟨m, hm, rfl⟩

theorem queueByte_ok {i : Len} {s t : State} (h : queueByte i s = .ok t) :
    ∃ v, s.mem.read (bufferAddr s.st.wr.buf i) = some v ∧
      t = scbTx v (record (.memRead (bufferAddr s.st.wr.buf i) v) s) := by
  unfold queueByte at h
  split at h
  · cases h
  · next r hr =>
      obtain ⟨hv, h2⟩ := memRead_ok hr
      cases h
      exact ⟨r.1, hv, by rw [h2]⟩

/-- What a drain of `n` bytes leaves: the index `n` further, the FIFO `n` bytes shorter, memory still canonical; nothing else of the
engine, the host registers or the environment but the trace and the free counter. -/
theorem drain_ok {n : Nat} {s t : State} (h : drain n s = .ok t) :
    t.st = { s.st with rd := { s.st.rd with idx := s.st.rd.idx + BitVec.ofNat 16 n } } ∧
    t.argBuf = s.argBuf ∧ t.argLen = s.argLen ∧ t.rsp = s.rsp ∧ t.line = s.line ∧ t.softResets = s.softResets ∧
    t.readData = s.readData ∧ t.moves = s.moves ∧ t.scb.rx = s.scb.rx.drop n ∧ (s.mem.wf = true → t.mem.wf = true) ∧
    t.scb.pend = s.scb.pend ∧ t.scb.tx = s.scb.tx ∧ t.scb.busy = s.scb.busy ∧ t.scb.en = s.scb.en := by
  induction n generalizing s with
  | zero => cases h; simp
  | succ n ih =>
    simp only [drain] at h
    split at h
    · cases h
    · next u hu =>
      obtain ⟨m, hm, rfl⟩ := memWrite_ok hu
      obtain ⟨h1, h2, h3, h4, h5, h6, h7, h8, h9, h10, h11, h12, h13, h14⟩ := ih h
      have hrx : (scbRx s).2.scb = { s.scb with rx := s.scb.rx.drop 1 } := by
        rcases hs : s.scb with ⟨p, rx, tx, b, e⟩
        cases rx <;> simp [scbRx, hs]
      simp only [record_st, record_argBuf, record_argLen, record_rsp, record_line, record_softResets, record_readData,
        record_moves, record_scb, record_mem, scbRx_st, scbRx_argBuf, scbRx_argLen, scbRx_rsp, scbRx_line,
        scbRx_softResets, scbRx_readData, scbRx_moves, scbRx_mem, hrx, List.drop_drop] at *
      refine ⟨?_, h2, h3, h4, h5, h6, h7, h8, ?_, fun hw => h10 (Memory.wf_write hw hm), h11, h12, h13, h14⟩
      · rw [h1]
        simp only [Engine.mk.injEq, Descriptor.mk.injEq, true_and, and_true]
        rw [BitVec.add_assoc]
        congr 1
        apply BitVec.eq_of_toNat_eq
        simp [Nat.add_comm]
      · rw [h9, Nat.add_comm]

/-- A drain of `n` bytes that are there is stuck at the first of its addresses without memory, byte `k` (R58). -/
theorem drain_refused {k n : Nat} {s : State} (hk : k < n) (hn : n ≤ s.scb.rx.length)
    (hj : ∀ j < k, s.mem.read (bufferAddr s.st.rd.buf (s.st.rd.idx + BitVec.ofNat 16 j)) ≠ none)
    (h : s.mem.read (bufferAddr s.st.rd.buf (s.st.rd.idx + BitVec.ofNat 16 k)) = none) :
    drain n s = .error (.memoryRefused (bufferAddr s.st.rd.buf (s.st.rd.idx + BitVec.ofNat 16 k))) := by
  induction k generalizing n s with
  | zero =>
    obtain ⟨n, rfl⟩ : ∃ m, n = m + 1 := ⟨n - 1, by omega⟩
    obtain ⟨b, rest, hrx⟩ := List.exists_cons_of_length_pos (Nat.lt_of_lt_of_le hk hn)
    have h : s.mem.write (bufferAddr s.st.rd.buf s.st.rd.idx) b = none := by
      rw [Memory.write_eq_none]; simpa using h
    simp [drain, scbRx, hrx, memWrite, h]
  | succ k ih =>
    obtain ⟨n, rfl⟩ : ∃ m, n = m + 1 := ⟨n - 1, by omega⟩
    obtain ⟨b, rest, hrx⟩ := List.exists_cons_of_length_pos (Nat.lt_of_lt_of_le (Nat.zero_lt_of_lt hk) hn)
    have shift : ∀ i, s.st.rd.idx + 1#16 + BitVec.ofNat 16 i = s.st.rd.idx + BitVec.ofNat 16 (i + 1) := by
      intro i; rw [BitVec.add_assoc]; congr 1; apply BitVec.eq_of_toNat_eq; simp [Nat.add_comm]
    cases hm : s.mem.write (bufferAddr s.st.rd.buf s.st.rd.idx) b with
    | none => exact absurd (by simpa using Memory.write_eq_none.mp hm) (hj 0 (Nat.succ_pos k))
    | some m =>
      simp only [drain, scbRx, hrx, memWrite, record_st, record_mem, hm]
      rw [ih (Nat.lt_of_succ_lt_succ hk)]
      · simp [shift]
      · rw [hrx] at hn; simpa using hn
      · intro j hjk
        have := hj (j + 1) (Nat.succ_lt_succ hjk)
        simpa [shift, Memory.read_write_eq_none hm] using this
      · simpa [shift, Memory.read_write_eq_none hm] using h

/-- Whichever mask a read step clears, it leaves pending what its watched mask does not name (R204 item 1). -/
theorem pend_readClearMask {m : Byte} {s : State} (h : sourceMask (dataSource s.st.dsrc) &&& m = sourceMask (dataSource s.st.dsrc)) :
    s.scb.pend &&& ~~~readClearMask m s = s.scb.pend &&& ~~~m := by
  unfold readClearMask
  simp only []
  split
  · next h0 =>
    generalize s.scb.pend = p at *
    generalize sourceMask (dataSource s.st.dsrc) = d at *
    apply BitVec.eq_of_getLsbD_eq
    intro i hi
    have h1 := congrArg (fun x => BitVec.getLsbD x i) h
    have h2 := congrArg (fun x => BitVec.getLsbD x i) h0
    simp only [BitVec.getLsbD_and, BitVec.getLsbD_not, hi, decide_true, Bool.true_and] at *
    revert h1 h2
    cases p.getLsbD i <;> cases m.getLsbD i <;> cases d.getLsbD i <;> simp
  · rfl

/-! ### Taking a fault -/

/-- Fault recovery, field by field (R206). The SCB is whatever its soft reset leaves. -/
theorem faultRecover_fields (kind : FaultKind) (m : Byte) (who : FaultEntry) (s : State) :
    (faultRecover kind m who s).st = { (forceIdle s).st with
        status := match who with
          | .foreground => s.st.status
          | .interruptPath => setFlags (faultFlag kind) s.st.status } ∧
    (faultRecover kind m who s).rsp = (match who with
        | .foreground => ⟨faultCode kind, 0, 0⟩
        | .interruptPath => s.rsp) ∧
    (faultRecover kind m who s).scb = softResetScb s.freeCount ∧
    (faultRecover kind m who s).trace = s.trace ++ [.scbClear m, .csAcquire, .scbSoftReset, .csRelease] ∧
    (faultRecover kind m who s).softResets = s.softResets + 1 ∧
    (faultRecover kind m who s).freeCount = s.freeCount + 1 ∧
    (faultRecover kind m who s).mem = s.mem ∧ (faultRecover kind m who s).argBuf = s.argBuf ∧
    (faultRecover kind m who s).argLen = s.argLen ∧ (faultRecover kind m who s).line = s.line ∧
    (faultRecover kind m who s).readData = s.readData ∧ (faultRecover kind m who s).moves = s.moves := by
  cases who <;> simp [faultRecover, faultReport, forceIdle]

theorem softResetScb_rx_length (n : Nat) : (softResetScb n).rx.length ≤ Config.fifoDepth := by
  simp [softResetScb]

/-! ### The agents' steps -/

/-- A resolve step that goes on: the wait it ends, the source it classified, and what follows (R13). -/
theorem resolveStep_next {s t : State} (h : resolveStep s = .next t) :
    ∃ o, classify s.scb.pend (waitOrder s.st.op) = some o ∧ resolveBy s.st.op o (endWait (scbPending s)) = .next t := by
  unfold resolveStep at h
  split at h
  · cases h
  · next o ho => exact ⟨o, ho, h⟩

/-- The source and mask an interrupt step classifies (R135). -/
theorem interruptSource_some {s : State} {c : Source × Byte} (h : interruptSource s = some c) :
    s.st.armed ≠ .none ∧ ∃ w, interruptWatch s.st = some w ∧ classify s.scb.pend w.order = some c.1 ∧ c.2 = w.mask := by
  unfold interruptSource at h
  split at h
  · cases h
  · next ha =>
    split at h
    · cases h
    · next w hw =>
      split at h
      · cases h
      · next o ho => cases h; exact ⟨ha, w, hw, ho, rfl⟩

/-- An interrupt step that goes on: the source it classified, with its mask, and the continuation that ran (R135). -/
theorem interruptStep_next {s t : State} (h : interruptStep s = .next t) :
    ∃ c, interruptSource s = some c ∧ continueWith c.1 c.2 (scbPending s) = .ok t := by
  unfold interruptStep at h
  split at h
  · cases h
  · next c hc =>
    refine ⟨c, hc, ?_⟩
    unfold outcomeOf at h
    split at h
    · next u hu => cases h; exact hu
    · cases h

/-- A CMD write that goes on ran the command its word decodes to (R34). -/
theorem commandWrite_next {w : Word} {s t : State} (h : commandWrite w s = .next t) :
    s.st.op = .none ∧ ∃ i, decode w = .ok i ∧ exec i s = .next t := by
  unfold commandWrite at h
  split at h
  · cases h
  · next hb =>
    split at h
    · cases h
    · next i hi => exact ⟨by simpa [busyBit] using hb, i, hi, h⟩

/-- A host write that goes on, register by register (R32). -/
theorem hostWriteStep_next {offset width : Nat} {v : Word} {s t : State} (h : hostWriteStep offset width v s = .next t) :
    (offset = 0x0 ∧ width = 4 ∧ commandWrite v s = .next t) ∨ t = { s with argBuf := v } ∨
    t = { s with argLen := v.setWidth 16 } ∨ t = s := by
  unfold hostWriteStep at h
  split at h
  · cases h
  · next hr =>
    refine .inl ?_
    unfold hostReg at hr
    split at hr
    · next hw => split at hr <;> simp_all
    · cases hr
  · cases h; exact .inr (.inl rfl)
  · cases h; exact .inr (.inr (.inl rfl))
  · cases h; exact .inr (.inr (.inr rfl))

/-- A step that goes on, agent by agent: nothing scheduled, or the scheduled agent's step on the rest of the schedule. -/
theorem step_next {s t : State} (h : step s = .next t) :
    (s.moves = [] ∧ t = s) ∨ ∃ m rest, s.moves = m :: rest ∧ runMove m { s with moves := rest } = .next t := by
  unfold step at h
  split at h
  · next hm => cases h; exact .inl ⟨hm, rfl⟩
  · next m rest hm => exact .inr ⟨m, rest, hm, h⟩

/-- What a move of the SCB environment can change: `scb` alone, its RX FIFO within its depth (R36). -/
theorem envStep_next {e : EnvMove} {s t : State} (h : envStep e s = .next t) :
    ∃ scb, t = { s with scb := scb } ∧ (s.scb.rx.length ≤ Config.fifoDepth → scb.rx.length ≤ Config.fifoDepth) := by
  cases e with
  | raise m => cases h; exact ⟨_, rfl, id⟩
  | lower m => cases h; exact ⟨_, rfl, id⟩
  | setBusy v => cases h; exact ⟨_, rfl, id⟩
  | rxPush b =>
    simp only [envStep] at h
    split at h
    · next hl => cases h; exact ⟨_, rfl, fun _ => by simpa using hl⟩
    · cases h
  | txPop =>
    simp only [envStep] at h
    split at h
    · cases h
    · cases h; exact ⟨_, rfl, id⟩

/-- The invariant says nothing of the schedule. -/
theorem State.Inv.withMoves {s : State} (h : s.Inv) (moves : List Move) : ({ s with moves := moves } : State).Inv :=
  ⟨⟨h.wrIdxLe, h.rdIdxLe, h.haltCauseIff, h.xferInpZero, h.armedWrite, h.armedRead, h.stopPendingArmed, h.waitDisarmed,
    h.waitAddr, h.waitWr, h.waitRd, h.idleCtl⟩, h.armedDir, h.armedSource, h.writeFresh, h.readFresh, h.writeUnfinished,
    h.readUnfinished, h.waitStop, h.rxBound, h.memWf⟩

end Sys2Proof.Machine
end

