-- ==== Sys2Proof/Laws/PerInstr.lean ====
section
/-! SUPPORT. A family of laws about each instruction as syntax: its encoding carries its own opcode in field OP and 0 in the reserved
fields (R71, R73, R74). -/

namespace Sys2Proof.Laws.EncodedFields

/-- The opcode of a command (R73's table). -/
def opcodeOfInstr : Instr → Nat
  | .start _ _ => 0x1
  | .restart _ _ => 0x2
  | .stop => 0x3
  | .wrbyte _ => 0x4
  | .rdbyte _ => 0x5
  | .qwrite _ _ _ => 0x6
  | .qread _ _ _ => 0x7
  | .getwcnt => 0x8
  | .getrcnt => 0x9
  | .clrwbuf => 0xA
  | .clrrbuf => 0xB
  | .getstat => 0xC
  | .clrstat => 0xD
  | .rstwa => 0xE

/-- Field OP holds the opcode, and the reserved bits 31:24 and 15 are 0. -/
def Statement (i : Instr) : Prop :=
  ((encode i).extractLsb' 0 4).toNat = opcodeOfInstr i ∧ (encode i).extractLsb' 24 8 = 0 ∧ (encode i).getLsbD 15 = false

/-- The same of any CMD32 word, once for all commands. -/
theorem cmd32_fields (d : Byte) (h s k r : BitVec 1) (a : SlaveAddr) (op : BitVec 4) :
    ((cmd32 d h s k r a op).extractLsb' 0 4).toNat = op.toNat ∧ (cmd32 d h s k r a op).extractLsb' 24 8 = 0 ∧
      (cmd32 d h s k r a op).getLsbD 15 = false := by
  refine ⟨?_, ?_, ?_⟩
  · congr 1
    ext i hi
    have hlt : i < 16 ∧ i < 14 ∧ i < 13 ∧ i < 12 ∧ i < 11 ∧ i < 32 := by omega
    simp [cmd32, place, hi, hlt]
  · ext i hi
    simp [cmd32, place]
    refine ⟨⟨⟨⟨⟨⟨?_, ?_⟩, ?_⟩, ?_⟩, ?_⟩, ?_⟩, ?_⟩ <;> intros <;> exact BitVec.getLsbD_of_ge _ _ (by omega)
  · simp [cmd32, place]

theorem start (a : SlaveAddr) (r : Dir) : Statement (.start a r) := cmd32_fields ..
theorem restart (a : SlaveAddr) (r : Dir) : Statement (.restart a r) := cmd32_fields ..
theorem stop : Statement .stop := cmd32_fields ..
theorem wrbyte (d : Byte) : Statement (.wrbyte d) := cmd32_fields ..
theorem rdbyte (k : AckPolicy) : Statement (.rdbyte k) := cmd32_fields ..
theorem qwrite (a : SlaveAddr) (p : StartPolicy) (h : ComplPolicy) : Statement (.qwrite a p h) := cmd32_fields ..
theorem qread (a : SlaveAddr) (p : StartPolicy) (h : ComplPolicy) : Statement (.qread a p h) := cmd32_fields ..
theorem getwcnt : Statement .getwcnt := cmd32_fields ..
theorem getrcnt : Statement .getrcnt := cmd32_fields ..
theorem clrwbuf : Statement .clrwbuf := cmd32_fields ..
theorem clrrbuf : Statement .clrrbuf := cmd32_fields ..
theorem getstat : Statement .getstat := cmd32_fields ..
theorem clrstat : Statement .clrstat := cmd32_fields ..
theorem rstwa : Statement .rstwa := cmd32_fields ..

end Sys2Proof.Laws.EncodedFields
end

