-- ==== Sys2Proof/Tests/Slice0.lean ====
section
/-! SUPPORT. The model's own tests. Expected values are those of the spec: 30_encoding.md R77 and R82 and the vectors of
95_test_vectors.md, by their ids. Then, for every statement with hypotheses, a witness that its hypotheses can be met. -/

namespace Sys2Proof.Tests

open Sys2Proof Sys2Proof.Machine

/-! ### Helpers -/

/-- The next state of an outcome. -/
def nextOf : Host.Outcome State Fault Refusal → Option State
  | .next s => some s
  | .fault _ => none
  | .refused _ => none

/-- An engine in a state, the rest as after reset. -/
def engine (p : ProtocolState) (d : Dir) (c : HaltCause) : Engine := { Engine.reset with state := p, dir := d, haltCause := c }

/-- A machine with an engine, pending sources and a schedule, the rest as after reset. -/
def machine (e : Engine) (p : Byte) (ms : List Move) : State :=
  { State.reset with st := e, scb := { State.reset.scb with pend := p }, moves := ms }

/-- A machine waiting in a manual operation, its resolve step scheduled. -/
def waiting (w : Wait) (p : ProtocolState) (d : Dir) (pend : Byte) : State :=
  machine { engine p d .none with op := w } pend [.resolve]

/-- A machine with an armed write of `len` bytes at 0x300, `idx` of them counted, the interrupt path scheduled. -/
def writing (p : ProtocolState) (len idx : Len) (pend : Byte) : State :=
  { machine { engine p .write .none with armed := .write, wr := ⟨0x300, len, idx⟩ } pend [.interrupt] with
    mem := ⟨[(0x300, 0x01), (0x301, 0x02), (0x302, 0x03)], []⟩ }

/-- A machine with an armed read of `len` bytes at 0x200, `idx` of them counted, the interrupt path scheduled. -/
def reading (p : ProtocolState) (o : DataSource) (len idx : Len) (rx : List Byte) (pend : Byte) : State :=
  let s := machine { engine p .read .none with armed := .read, dsrc := o, rd := ⟨0x200, len, idx⟩ } pend [.interrupt]
  { s with scb := { s.scb with rx := rx } }

/-- What most vectors give: state, halt cause, status, RSP and trace. -/
def look (r : Host.Outcome State Fault Refusal) : Option (ProtocolState × HaltCause × Byte × Word × List Action) :=
  (nextOf r).map fun s => (s.st.state, s.st.haltCause, s.st.status, rspWord s, s.trace)

/-! ### Well-formedness: each check refuses an ill-formed word -/

theorem test_wf_opcode0 : commandWordWellFormed 0x00000000 = false := by decide
theorem test_wf_opcodeF : commandWordWellFormed 0x0000000F = false := by decide
theorem test_wf_bit24 : commandWordWellFormed 0x01000004 = false := by decide
theorem test_wf_bit31 : commandWordWellFormed 0x8000000E = false := by decide
theorem test_wf_bit15 : commandWordWellFormed 0x00008001 = false := by decide
theorem test_wf_unusedD : commandWordWellFormed 0x00010003 = false := by decide
theorem test_wf_unusedH : commandWordWellFormed 0x00004001 = false := by decide
theorem test_wf_unusedS : commandWordWellFormed 0x00002004 = false := by decide
theorem test_wf_unusedK : commandWordWellFormed 0x00001506 = false := by decide
theorem test_wf_unusedR : commandWordWellFormed 0x00000816 = false := by decide
theorem test_wf_unusedA : commandWordWellFormed 0x00000013 = false := by decide
theorem test_wf_legal : commandWordWellFormed 0x00006506 = true := by decide

/-- The operand types leave no ill-formed instruction. -/
theorem test_instr_wellFormed (i : Instr) : i.wellFormed = true := by
  cases i <;> simp [Instr.wellFormed] <;> exact BitVec.isLt _

/-! ### Decoding: a word written from R71's fields for each command (95_test_vectors.md, Encoding and decoding) -/

theorem test_decode_start : decode 0b00000000000000000000111111110001 = .ok (.start 0x7F .read) := by decide
theorem test_decode_start_write : decode 0x000007F1 = .ok (.start 0x7F .write) := by decide
theorem test_decode_restart : decode 0b00000000000000000000110100000010 = .ok (.restart 0x50 .read) := by decide
theorem test_decode_stop : decode 0b00000000000000000000000000000011 = .ok .stop := by decide
theorem test_decode_wrbyte : decode 0b00000000000100100000000000000100 = .ok (.wrbyte 0x12) := by decide
theorem test_decode_rdbyte : decode 0b00000000000000000001000000000101 = .ok (.rdbyte .ack) := by decide
theorem test_decode_rdbyte_nack : decode 0x00000005 = .ok (.rdbyte .nack) := by decide
theorem test_decode_qwrite : decode 0b00000000000000000010010100010110 = .ok (.qwrite 0x51 .restart .stop) := by decide
theorem test_decode_qread : decode 0b00000000000000000100010100000111 = .ok (.qread 0x50 .start .halt) := by decide
theorem test_decode_getwcnt : decode 0b00000000000000000000000000001000 = .ok .getwcnt := by decide
theorem test_decode_getrcnt : decode 0b00000000000000000000000000001001 = .ok .getrcnt := by decide
theorem test_decode_clrwbuf : decode 0b00000000000000000000000000001010 = .ok .clrwbuf := by decide
theorem test_decode_clrrbuf : decode 0b00000000000000000000000000001011 = .ok .clrrbuf := by decide
theorem test_decode_getstat : decode 0b00000000000000000000000000001100 = .ok .getstat := by decide
theorem test_decode_clrstat : decode 0b00000000000000000000000000001101 = .ok .clrstat := by decide
theorem test_decode_rstwa : decode 0b00000000000000000000000000001110 = .ok .rstwa := by decide

theorem test_decode_refuses :
    decode 0x00000000 = .error .reservedOpcode ∧ decode 0x0000000F = .error .reservedOpcode ∧
    decode 0x00001001 = .error .nonzeroUnusedBits ∧ decode 0x00000013 = .error .nonzeroUnusedBits ∧
    decode 0x01000004 = .error .nonzeroUnusedBits ∧ decode 0x00000805 = .error .nonzeroUnusedBits ∧
    decode 0x0000100C = .error .nonzeroUnusedBits ∧ decode 0x8000000E = .error .nonzeroUnusedBits := by decide

theorem test_encode : encode (.qwrite 0x50 .restart .halt) = 0x00006506 ∧ encode (.wrbyte 0xFF) = 0x00FF0004 ∧
    encode (.start 0x50 .read) = 0x00000D01 := by decide

theorem test_wireByte : wireByte 0x51 .write = 0xA2 ∧ wireByte 0x7F .read = 0xFF := by decide

/-- The table's numbering and the CMD register's are the same: one 32-bit word. -/
theorem test_decodeTableWord : decodeTableWord 32 0x00000501 = some (.start 0x50 .write) ∧
    decodeTableWord 32 0x00008001 = none := by decide

/-- A placed word runs as the first command after reset (S1). -/
theorem test_withFetchWord : look (step (State.reset.withFetchWord 32 0x00000501)) =
    some (.addrWr, .none, 0x00, 0x00000080, [.scbBusBusy false, .scbTx 0xA0, .scbCmd 0x01]) := by decide

/-! ### Manual sequencer, issue steps -/

theorem test_S2_start_refused : look (exec (.start 0x50 .write) (machine (engine .dataWr .write .none) 0 [])) =
    some (.dataWr, .none, 0x00, 0x00000001, []) := by decide
theorem test_W2_start_busy :
    look (exec (.start 0x50 .read) { State.reset with scb := { State.reset.scb with busy := true } }) =
    some (.idle, .none, 0x00, 0x00000002, [.scbBusBusy true]) := by decide
theorem test_S7_restart_idle : look (exec (.restart 0x50 .read) State.reset) =
    some (.idle, .none, 0x00, 0x00000001, []) := by decide
theorem test_S8_restart_owed : look (exec (.restart 0x50 .write) (machine (engine .dataRd .read .none) 0 [])) =
    some (.addrWr, .none, 0x00, 0x00000080, [.scbCmd 0x12, .scbTx 0xA0]) := by decide
theorem test_S10_stop_not_owed : look (exec .stop (machine (engine .halted .read .addrNak) 0 [])) =
    some (.halted, .addrNak, 0x00, 0x00000080, [.scbCmd 0x04]) := by decide
theorem test_S11_stop_owed : look (exec .stop (machine (engine .dataRd .read .none) 0 [])) =
    some (.dataRd, .none, 0x00, 0x00000080, [.scbCmd 0x14]) := by decide
theorem test_S17_wrbyte_after_buffer : look (exec (.wrbyte 0x33) (machine (engine .halted .write .bufHalt) 0 [])) =
    some (.dataWr, .none, 0x00, 0x00000080, [.scbTx 0x33]) := by decide
theorem test_S15_wrbyte_after_nack : look (exec (.wrbyte 0x00) (machine (engine .halted .write .dataNak) 0 [])) =
    some (.halted, .dataNak, 0x00, 0x00000001, []) := by decide
theorem test_S21_rdbyte_after_nack : look (exec (.rdbyte .ack) (machine (engine .halted .read .rdNak) 0 [])) =
    some (.halted, .rdNak, 0x00, 0x00000001, []) := by decide
theorem test_S24_rdbyte_waits : look (exec (.rdbyte .ack) (machine (engine .dataRd .read .none) 0 [])) =
    some (.dataRd, .none, 0x00, 0x00000080, []) := by decide

/-! ### Manual sequencer, resolve steps -/

theorem test_S3_ack_beats_nack : look (step (waiting .addr .addrWr .write 0x03)) =
    some (.dataWr, .none, 0x00, 0x00000000, [.scbPending 0x03, .scbClear 0x0F]) := by decide
theorem test_S4_address_nack : look (step (waiting .addr .addrWr .write 0x06)) =
    some (.halted, .addrNak, 0x00, 0x00000003, [.scbPending 0x06, .scbClear 0x0F]) := by decide
theorem test_S5_unwatched_source : look (step (waiting .addr .addrWr .write 0x20)) = none := by decide
theorem test_S13_byte_ack : look (step (waiting .wr .dataWr .write 0x01)) =
    some (.halted, .wrAck, 0x00, 0x00000000, [.scbPending 0x01, .scbClear 0x0F]) := by decide
theorem test_S14_byte_nack : look (step (waiting .wr .dataWr .write 0x02)) =
    some (.halted, .dataNak, 0x00, 0x00000004, [.scbPending 0x02, .scbClear 0x0F]) := by decide
theorem test_S22_read_ack :
    look (step { waiting (.rd .ack) .dataRd .read 0x24 with scb := ⟨0x24, [0x99], [], false, true⟩ }) =
    some (.dataRd, .none, 0x00, 0x00009900, [.scbPending 0x24, .scbRx 0x99, .scbClear 0x2C, .scbCmd 0x08]) := by decide
theorem test_W8_read_nack :
    look (step { waiting (.rd .nack) .dataRd .read 0x20 with scb := ⟨0x20, [0x5A], [], false, true⟩ }) =
    some (.halted, .rdNak, 0x00, 0x00005A00, [.scbPending 0x20, .scbRx 0x5A, .scbClear 0x2C]) := by decide
theorem test_S11_stop_beats_arbitration : look (step (waiting .stop .dataRd .read 0x14)) =
    some (.idle, .none, 0x00, 0x00000000, [.scbPending 0x14, .scbClear 0x1C]) := by decide
theorem test_FR1_arbitration : look (step (waiting .addr .addrRd .read 0x04)) =
    some (.idle, .none, 0x00, 0x00000005, [.scbPending 0x04, .scbClear 0x0F, .csAcquire, .scbSoftReset, .csRelease]) := by
  decide
theorem test_FR2_bus_error : look (step (waiting .wr .dataWr .write 0x08)) =
    some (.idle, .none, 0x00, 0x00000006, [.scbPending 0x08, .scbClear 0x0F, .csAcquire, .scbSoftReset, .csRelease]) := by
  decide

/-! ### Buffered transfers -/

theorem test_P3_qwrite :
    ((nextOf (exec (.qwrite 0x50 .start .stop) { State.reset with argBuf := 0x20000000, argLen := 3 })).map
      fun s => (s.st.state, s.st.armed, s.st.wr, rspWord s, s.trace)) =
    some (.addrWr, .write, ⟨0x20000000, 3, 0⟩, 0x00000000,
      [.scbBusBusy false, .scbClear 0xFF, .scbTx 0xA0, .scbCmd 0x01]) := by decide
theorem test_B10_qwrite_owed :
    look (exec (.qwrite 0x50 .start .stop)
      { machine { engine .halted .read .bufHalt with status := 0x09 } 0 [] with argBuf := 0x100, argLen := 1 }) =
    some (.addrWr, .none, 0x01, 0x00000000, [.scbClear 0xFF, .scbTx 0xA0, .scbCmd 0x11]) := by decide
theorem test_B2_qread_busy :
    look (exec (.qread 0x50 .start .stop)
      { State.reset with argBuf := 0x100, scb := { State.reset.scb with busy := true } }) =
    some (.idle, .none, 0x00, 0x00000002, [.scbBusBusy true]) := by decide
theorem test_W1_read_threshold (h : Config.fifoDepth = 4) :
    setupSource .read 0 = .rxNotEmpty ∧ setupSource .read 3 = .rxNotEmpty ∧ setupSource .read 4 = .rxFull ∧
    setupSource .read 0xFFFF = .rxFull := by simp [setupSource, readSource, h]
theorem test_P3_address_ack : look (step (writing .addrWr 3 0 0x01)) =
    some (.dataWr, .none, 0x00, 0x00000000,
      [.scbPending 0x01, .scbClear 0x0F, .memRead 0x300 0x01, .scbTx 0x01, .scbClear 0x80]) := by decide
theorem test_B12_byte_ack :
    ((nextOf (step (writing .dataWr 3 1 0x81))).map fun s => (s.st.wr.idx, s.scb.pend, s.trace)) =
    some (2, 0x00, [.scbPending 0x81, .scbClear 0x8F, .memRead 0x302 0x03, .scbTx 0x03]) := by decide
theorem test_B13_underflow : look (step (writing .dataWr 3 1 0x80)) =
    some (.dataWr, .none, 0x00, 0x00000000, [.scbPending 0x80, .scbClear 0x80]) := by decide
theorem test_B14_stop_not_watched : look (step (writing .dataWr 3 1 0x10)) = none := by decide
theorem test_B19_byte_nack : look (step (writing .dataWr 3 1 0x02)) =
    some (.halted, .dataNak, 0x28, 0x00000000, [.scbPending 0x02, .scbClear 0x8F]) := by decide
theorem test_P3_last_ack :
    ((nextOf (step (writing .dataWr 3 2 0x01))).map fun s => (s.st.wr.idx, s.st.stopPending, s.st.status, s.trace)) =
    some (3, true, 0x00, [.scbPending 0x01, .scbClear 0x8F, .scbCmd 0x04]) := by decide
theorem test_P3_stop_event :
    look (step (let s := writing .dataWr 3 3 0x10; { s with st := { s.st with stopPending := true } })) =
    some (.idle, .none, 0x02, 0x00000000, [.scbPending 0x10, .scbClear 0x1C]) := by decide
theorem test_B4_address_nack : look (step (reading .addrRd .rxNotEmpty 2 0 [] 0x02)) =
    some (.halted, .addrNak, 0x18, 0x00000000, [.scbPending 0x02, .scbClear 0x0F]) := by decide
theorem test_B16_read_completes :
    ((nextOf (step (reading .dataRd .rxNotEmpty 2 0 [0x10, 0x20, 0x30] 0x20))).map
      fun s => (s.st.rd.idx, s.scb.rx, s.st.stopPending, s.trace)) =
    some (2, [0x30], true,
      [.scbPending 0x20, .scbRxLevel 3, .scbRx 0x10, .memWrite 0x200 0x10, .scbRx 0x20, .memWrite 0x201 0x20,
       .scbClear 0x20, .scbCmd 0x14]) := by decide
theorem test_B16_read_stores :
    (nextOf (step (reading .dataRd .rxNotEmpty 2 0 [0x10, 0x20, 0x30] 0x20))).map (·.mem.cells) =
    some [(0x200, 0x10), (0x201, 0x20)] := by decide
theorem test_B15_read_switches_source (h : Config.fifoDepth = 4) :
    (afterDrain 0x4C 4 (reading .dataRd .rxFull 6 4 [] 0)).st.dsrc = .rxNotEmpty := by
  simp [afterDrain, readClearMask, reading, machine, engine, remaining, scbClear, scbCmd, record, h]
theorem test_B17_read_empty : look (step (reading .dataRd .rxNotEmpty 2 0 [] 0x20)) =
    some (.dataRd, .none, 0x00, 0x00000000, [.scbPending 0x20, .scbRxLevel 0, .scbClear 0x20]) := by decide
/-- R204 item 1: an arbitration loss pending beside the data is cleared with the watched mask and lost. -/
theorem test_R204_fault_beside_data_is_lost :
    ((nextOf (step (reading .dataRd .rxNotEmpty 1 0 [0x10] 0x24))).map fun s => (s.st.rd.idx, s.scb.pend, s.softResets)) =
    some (1, 0x00, 0) := by decide
/-- P4, step 5: a source the step does not watch stays. -/
theorem test_P4_unwatched_source_stays :
    ((nextOf (step (reading .dataRd .rxFull 1 0 [0x11] 0x60))).map fun s => s.scb.pend) = some 0x20 := by decide
theorem test_B18_source_not_armed : look (step (reading .dataRd .rxFull 6 0 [] 0x20)) = none := by decide
theorem test_FR5_arbitration :
    ((nextOf (step (reading .dataRd .rxFull 8 4 [] 0x04))).map
      fun s => (s.st.state, s.st.rd.idx, s.st.status, s.softResets, s.trace)) =
    some (.idle, 4, 0x40, 1, [.scbPending 0x04, .scbClear 0x4C, .csAcquire, .scbSoftReset, .csRelease]) := by decide

/-! ### Workaround and accessors -/

theorem test_RW2_rstwa_read : (nextOf (exec .rstwa (machine (engine .dataRd .read .none) 0 []))).map (·.trace) =
    some [.csAcquire, .lineWrite false, .lineSetDriveMode .gpio, .scbEnable false, .lineWrite false, .delay Config.tLowUs,
      .lineWrite true, .delay Config.tHighUs, .lineWrite false, .delay Config.tLowUs, .scbEnable true,
      .lineSetDriveMode .periph, .scbCmd 0x01, .csRelease] := rfl
theorem test_RW3_rstwa_write : look (exec .rstwa (machine (engine .halted .write .wrAck) 0 [])) =
    some (.halted, .wrAck, 0x00, 0x00000000, [.csAcquire, .lineWrite false, .scbSoftReset, .scbCmd 0x01, .csRelease]) := by
  decide
theorem test_AC2_getwcnt : look (exec .getwcnt (machine { Engine.reset with wr := ⟨0, 5, 3⟩ } 0 [])) =
    some (.idle, .none, 0x00, 0x00030000, []) := by decide
theorem test_AC3_getrcnt : look (exec .getrcnt (machine { Engine.reset with rd := ⟨0, 0xFFFF, 0xFFFF⟩ } 0 [])) =
    some (.idle, .none, 0x00, 0xFFFF0000, []) := by decide
theorem test_W4_clrrbuf :
    ((nextOf (exec .clrrbuf (machine { Engine.reset with status := 0x03, wr := ⟨0, 9, 2⟩, rd := ⟨0, 9, 5⟩ } 0 []))).map
      fun s => (s.st.status, s.st.wr.idx, s.st.rd.idx, rspWord s)) = some (0x02, 2, 0, 0x00000000) := by decide
theorem test_W4_clrwbuf :
    ((nextOf (exec .clrwbuf (machine { Engine.reset with status := 0x03, wr := ⟨0, 9, 2⟩, rd := ⟨0, 9, 5⟩ } 0 []))).map
      fun s => (s.st.status, s.st.wr.idx, s.st.rd.idx, rspWord s)) = some (0x01, 0, 5, 0x00000000) := by decide
theorem test_W5_getstat : look (exec .getstat (machine { engine .halted .write .addrNak with status := 0x18 } 0 [])) =
    some (.halted, .addrNak, 0x18, 0x001C0000, []) := by decide
theorem test_AC6_clrstat : look (exec .clrstat (machine { engine .halted .write .addrNak with status := 0x18 } 0 [])) =
    some (.halted, .addrNak, 0x00, 0x00180000, []) := by decide

/-! ### Memory and the host port -/

theorem test_memory_canonical :
    (((⟨[], []⟩ : Memory).write 0x10 0xAA).bind fun m => m.write 0x08 0xBB).map (·.cells) =
      some [(0x08, 0xBB), (0x10, 0xAA)] ∧
    ((⟨[(0x10, 0xAA)], []⟩ : Memory).write 0x10 0x00).map (·.cells) = some [] := by decide
theorem test_memory_hole : (⟨[], [⟨0x1000, 0x10⟩]⟩ : Memory).read 0x100F = none ∧
    (⟨[], [⟨0x1000, 0x10⟩]⟩ : Memory).read 0x1010 = some 0x00 := by decide
theorem test_host_port : hostReg 0xC 4 = some .rsp ∧ hostReg 0x2 4 = none ∧ hostReg 0x0 2 = none ∧ hostReg 0x10 4 = none := by
  decide

/-! ### Witnesses: concrete states and operands that meet a statement's hypotheses, clause by clause -/

/-- A machine after reset with one scheduled move. -/
def scheduled (m : Move) : State := { State.reset with moves := [m] }

theorem writing_inv : (writing .dataWr 3 1 0x01).Inv := by
  refine ⟨⟨by decide, by decide, by decide, by decide, by decide, by decide, by decide, by decide, by decide, by decide, ?_,
    by decide⟩, ?_, by decide, by decide, by decide, by decide, by decide, by decide, Nat.zero_le _, by decide⟩
  · intro k h; cases h
  · intro d; cases d <;> decide

theorem reading_inv_pend (p : Byte) : (reading .dataRd .rxNotEmpty 2 1 [0x10] p).Inv := by
  have h : (reading .dataRd .rxNotEmpty 2 1 [0x10] 0x20).Inv := by
    refine ⟨⟨by decide, by decide, by decide, by decide, by decide, by decide, by decide, by decide, by decide, by decide, ?_,
      by decide⟩, ?_, by decide, by decide, by decide, by decide, by decide, by decide, ?_, by decide⟩
    · intro k h; cases h
    · intro d; cases d <;> decide
    · show 1 ≤ Config.fifoDepth
      exact Nat.succ_pos _
  exact { h with }

theorem reading_inv : (reading .dataRd .rxNotEmpty 2 1 [0x10] 0x20).Inv := reading_inv_pend 0x20

theorem witness_DecodeOfEncode : (Instr.start 0x7F .read).wellFormed = true := by decide
theorem witness_EncodeOfDecode : decode 0x00FF0004 = .ok (.wrbyte 0xFF) := by decide
theorem witness_ReservedWordsRefused : (scheduled (.hostWrite 0x0 4 0xF)).moves = .hostWrite 0x0 4 0xF :: [] ∧
    (scheduled (.hostWrite 0x0 4 0xF)).st.op = .none ∧ commandWordWellFormed 0xF = false := by decide
theorem witness_StepRunsDecodedCommand : (scheduled (.hostWrite 0x0 4 0x3)).moves = .hostWrite 0x0 4 0x3 :: [] ∧
    (scheduled (.hostWrite 0x0 4 0x3)).st.op = .none ∧ decode 0x3 = .ok .stop := by decide
theorem witness_CommandWhileBusyRefused :
    { waiting .addr .addrWr .write 0 with moves := [.hostWrite 0x0 4 0x3] }.moves = .hostWrite 0x0 4 0x3 :: [] ∧
    { waiting .addr .addrWr .write 0 with moves := [.hostWrite 0x0 4 0x3] }.st.op ≠ .none := by decide
theorem witness_HostRegistersReadAndWrite : (scheduled (.hostRead 0x0 4)).moves = .hostRead 0x0 4 :: [] ∧
    (scheduled (.hostRead 0x4 4)).moves = .hostRead 0x4 4 :: [] ∧ (scheduled (.hostRead 0x8 4)).moves = .hostRead 0x8 4 :: [] ∧
    (scheduled (.hostRead 0xC 4)).moves = .hostRead 0xC 4 :: [] ∧
    (scheduled (.hostWrite 0x4 4 7)).moves = .hostWrite 0x4 4 7 :: [] ∧
    (scheduled (.hostWrite 0x8 4 7)).moves = .hostWrite 0x8 4 7 :: [] ∧
    (scheduled (.hostWrite 0xC 4 7)).moves = .hostWrite 0xC 4 7 :: [] := by decide
/-- Width 2, a misaligned offset, and the first offset past RSP. -/
theorem witness_BadHostAccessRefused : (2 ≠ 4 ∨ 0x0 % 4 ≠ 0 ∨ 0x10 ≤ 0x0) ∧ (4 ≠ 4 ∨ 0x2 % 4 ≠ 0 ∨ 0x10 ≤ 0x2) ∧
    (4 ≠ 4 ∨ 0x10 % 4 ≠ 0 ∨ 0x10 ≤ 0x10) ∧ (scheduled (.hostWrite 0x0 2 7)).moves = .hostWrite 0x0 2 7 :: [] ∧
    (scheduled (.hostRead 0x2 4)).moves = .hostRead 0x2 4 :: [] ∧ (scheduled (.hostRead 0x10 4)).moves = .hostRead 0x10 4 :: [] := by
  decide
theorem witness_ClassifyTakesFirstPending :
    (reading .dataRd .rxNotEmpty 2 0 [] 0).st.state = .dataRd ∧ (reading .dataRd .rxNotEmpty 2 0 [] 0).st.stopPending = false ∧
    (reading .dataRd .rxNotEmpty 2 0 [] 0).st.dsrc = .rxNotEmpty ∧ (reading .dataRd .rxFull 2 0 [] 0).st.state = .dataRd ∧
    (reading .dataRd .rxFull 2 0 [] 0).st.stopPending = false ∧ (reading .dataRd .rxFull 2 0 [] 0).st.dsrc = .rxFull := by decide
theorem witness_CompleteEffect : State.reset.st.ctl.compl = .stop ∧
    (machine { Engine.reset with ctl := ⟨.start, .halt⟩ } 0 []).st.ctl.compl = .halt := by decide
theorem witness_StartIssue :
    ((machine (engine .halted .write .wrAck) 0 []).st.op = .none ∧ (machine (engine .halted .write .wrAck) 0 []).st.state ≠ .idle) ∧
    (let s := { State.reset with scb := { State.reset.scb with busy := true } }
     s.st.op = .none ∧ s.st.state = .idle ∧ s.scb.busy = true) ∧
    (State.reset.st.op = .none ∧ State.reset.st.state = .idle ∧ State.reset.scb.busy = false) := by decide
theorem witness_RestartIssue :
    ((writing .dataWr 3 1 0).st.op = .none ∧ (writing .dataWr 3 1 0).st.armed ≠ .none) ∧
    (State.reset.st.op = .none ∧ State.reset.st.state ≠ .dataWr ∧ State.reset.st.state ≠ .dataRd ∧
      State.reset.st.state ≠ .halted) ∧
    (let s := machine (engine .halted .write .wrAck) 0 []
     s.st.op = .none ∧ s.st.armed = .none ∧ s.st.state = .halted) := by decide
theorem witness_StopIssue : (State.reset.st.op = .none ∧ State.reset.st.state = .idle) ∧
    ((writing .dataWr 3 1 0).st.op = .none ∧ (writing .dataWr 3 1 0).st.state ≠ .idle) := by decide
theorem witness_WriteByteIssue :
    (let s := machine (engine .halted .write .bufHalt) 0 []
     s.st.op = .none ∧ s.st.armed = .none ∧ s.st.state = .halted ∧ s.st.dir = .write ∧ s.st.haltCause = .bufHalt) ∧
    (let s := machine (engine .halted .read .bufHalt) 0 []
     s.st.op = .none ∧ ¬(s.st.state = .dataWr ∨
       s.st.state = .halted ∧ s.st.dir = .write ∧ (s.st.haltCause = .wrAck ∨ s.st.haltCause = .bufHalt))) ∧
    ((writing .dataWr 3 1 0).st.op = .none ∧ (writing .dataWr 3 1 0).st.armed ≠ .none) := by decide
theorem witness_ReadByteIssue :
    (let s := machine (engine .dataRd .read .none) 0 []
     s.st.op = .none ∧ s.st.armed = .none ∧ s.st.state = .dataRd) ∧
    (State.reset.st.op = .none ∧ State.reset.st.state ≠ .dataRd) := by decide

/-- The pending vectors of the clauses of AddressResolve and WriteByteResolve, in order, at their boundaries. -/
theorem witness_pending_vectors : (0x0F : Byte).getLsbD 0 = true ∧
    ((0x0E : Byte).getLsbD 0 = false ∧ (0x0E : Byte).getLsbD 1 = true) ∧
    ((0x0C : Byte).getLsbD 0 = false ∧ (0x0C : Byte).getLsbD 1 = false ∧ (0x0C : Byte).getLsbD 2 = true) ∧
    ((0x08 : Byte).getLsbD 0 = false ∧ (0x08 : Byte).getLsbD 1 = false ∧ (0x08 : Byte).getLsbD 2 = false ∧
      (0x08 : Byte).getLsbD 3 = true) ∧ (0xF0 : Byte) &&& 0x0F = 0 := by decide
theorem witness_AddressResolve (p : Byte) : (waiting .addr .addrWr .write p).moves = .resolve :: [] ∧
    (waiting .addr .addrWr .write p).st.op = .addr ∧ (waiting .addr .addrWr .write p).scb.pend = p := ⟨rfl, rfl, rfl⟩
theorem witness_WriteByteResolve (p : Byte) : (waiting .wr .dataWr .write p).moves = .resolve :: [] ∧
    (waiting .wr .dataWr .write p).st.op = .wr ∧ (waiting .wr .dataWr .write p).scb.pend = p := ⟨rfl, rfl, rfl⟩
theorem witness_StopResolve : (0x1C : Byte).getLsbD 4 = true ∧
    ((0x0C : Byte).getLsbD 4 = false ∧ (0x0C : Byte).getLsbD 2 = true) ∧
    ((0x08 : Byte).getLsbD 4 = false ∧ (0x08 : Byte).getLsbD 2 = false ∧ (0x08 : Byte).getLsbD 3 = true) ∧
    (0xE3 : Byte) &&& 0x1C = 0 ∧ ∀ p : Byte, (waiting .stop .halted .write p).moves = .resolve :: [] ∧
      (waiting .stop .halted .write p).st.op = .stop ∧ (waiting .stop .halted .write p).scb.pend = p :=
  ⟨by decide, by decide, by decide, by decide, fun _ => ⟨rfl, rfl, rfl⟩⟩
theorem witness_ReadByteResolve :
    (let s := { waiting (.rd .ack) .dataRd .read 0x2C with scb := ⟨0x2C, [0x99], [], false, true⟩ }
     s.moves = .resolve :: [] ∧ s.st.op = .rd .ack ∧ s.scb.pend.getLsbD 5 = true ∧ s.scb.rx = 0x99 :: []) ∧
    (let s := waiting (.rd .nack) .dataRd .read 0x20
     s.moves = .resolve :: [] ∧ s.st.op = .rd .nack ∧ s.scb.pend.getLsbD 5 = true ∧ s.scb.rx = []) ∧
    ((0x0C : Byte).getLsbD 5 = false ∧ (0x0C : Byte).getLsbD 2 = true) ∧
    ((0x08 : Byte).getLsbD 5 = false ∧ (0x08 : Byte).getLsbD 2 = false ∧ (0x08 : Byte).getLsbD 3 = true) ∧
    (0xD3 : Byte) &&& 0x2C = 0 := by and_intros <;> decide
theorem witness_ManualApiWritesNoFlag : (∃ t, exec .stop (writing .dataWr 3 1 0) = .next t) ∧
    ∃ t, step (waiting .addr .addrWr .write 0x01) = .next t := ⟨⟨_, rfl⟩, _, rfl⟩

/-- One state for each clause, in order. -/
theorem witness_QueueWriteIssue_QueueReadIssue : (State.reset.st.op = .none ∧ State.reset.argBuf = 0) ∧
    (let s := { writing .addrWr 3 0 0 with argBuf := 1 }
     s.st.op = .none ∧ s.argBuf ≠ 0 ∧ s.st.state ≠ .idle ∧ s.st.state ≠ .halted) ∧
    (let s := { State.reset with argBuf := 1, scb := { State.reset.scb with busy := true } }
     s.st.op = .none ∧ s.argBuf ≠ 0 ∧ s.st.state = .idle ∧ s.scb.busy = true) ∧
    (let s := { State.reset with argBuf := 0xFFFFFFFF }
     s.st.op = .none ∧ s.argBuf ≠ 0 ∧ s.st.state = .idle ∧ s.scb.busy = false) ∧
    (let s := { machine (engine .halted .read .addrNak) 0 [] with argBuf := 1 }
     s.st.op = .none ∧ s.argBuf ≠ 0 ∧ s.st.state = .halted) := by and_intros <;> decide
theorem witness_InterruptPathEnabled : (writing .dataWr 3 1 0x10).moves = .interrupt :: [] := rfl
theorem witness_BufferedAddressAck :
    (let s := writing .addrWr 1 0 0x0F
     s.moves = .interrupt :: [] ∧ s.st.stopPending = false ∧ s.st.state = .addrWr ∧ s.scb.pend.getLsbD 0 = true ∧
       s.st.armed = .write ∧ s.st.wr.len ≠ 0 ∧ s.mem.read s.st.wr.buf = some 0x01) ∧
    ((writing .addrWr 0 0 0x01).st.armed = .write ∧ (writing .addrWr 0 0 0x01).st.wr.len = 0) ∧
    (let s := reading .addrRd .rxFull 1 0 [] 0x01
     s.moves = .interrupt :: [] ∧ s.st.stopPending = false ∧ s.st.state = .addrRd ∧ s.scb.pend.getLsbD 0 = true ∧
       s.st.armed = .read ∧ s.st.rd.len ≠ 0) ∧
    ((reading .addrRd .rxNotEmpty 0 0 [] 0x01).st.armed = .read ∧ (reading .addrRd .rxNotEmpty 0 0 [] 0x01).st.rd.len = 0) := by
  and_intros <;> decide
theorem witness_BufferedAddressNack :
    (let s := reading .addrRd .rxFull 1 0 [] 0x0E
     s.moves = .interrupt :: [] ∧ s.st.armed ≠ .none ∧ s.st.stopPending = false ∧ s.st.state = .addrRd ∧
       s.scb.pend.getLsbD 0 = false ∧ s.scb.pend.getLsbD 1 = true) := by decide
theorem witness_BufferedByteAcked :
    (let s := writing .dataWr 0xFFFF 0xFFFE 0x8F
     s.moves = .interrupt :: [] ∧ s.st.armed ≠ .none ∧ s.st.stopPending = false ∧ s.st.state = .dataWr ∧
       s.scb.pend.getLsbD 0 = true ∧ s.st.wr.idx + 1 = s.st.wr.len) ∧
    (let s := writing .dataWr 3 1 0x01
     s.st.armed ≠ .none ∧ s.scb.pend.getLsbD 0 = true ∧ s.st.wr.idx + 1 ≠ s.st.wr.len ∧
       s.mem.read (s.st.wr.buf + (s.st.wr.idx + 1).setWidth 32) = some 0x03) := by and_intros <;> decide
theorem witness_BufferedByteNacked :
    (let s := writing .dataWr 3 1 0x8E
     s.moves = .interrupt :: [] ∧ s.st.armed ≠ .none ∧ s.st.stopPending = false ∧ s.st.state = .dataWr ∧
       s.scb.pend.getLsbD 0 = false ∧ s.scb.pend.getLsbD 1 = true) := by decide
theorem witness_BufferedUnderflowAlone :
    (let s := writing .dataWr 3 1 0xF0
     s.moves = .interrupt :: [] ∧ s.st.armed ≠ .none ∧ s.st.stopPending = false ∧ s.st.state = .dataWr ∧
       s.scb.pend &&& 0x0F = 0 ∧ s.scb.pend.getLsbD 7 = true) := by decide
/-- Two bytes of three wanted, a byte with both faults pending beside it, and an empty FIFO. -/
theorem witness_BufferedReadDrains :
    (let s := reading .dataRd .rxFull 3 1 [0x10, 0x20, 0x30] 0x40
     s.moves = .interrupt :: [] ∧ s.st.armed ≠ .none ∧ s.st.stopPending = false ∧ s.st.state = .dataRd ∧
       s.st.dsrc ≠ .txUnderflow ∧ s.scb.pend.getLsbD (sourceBit (dataSource s.st.dsrc)) = true ∧
       2 = min s.scb.rx.length (s.st.rd.len.toNat - s.st.rd.idx.toNat) ∧ s.mem.wf = true ∧ s.st.rd.idx ≤ s.st.rd.len ∧
       ∀ k < 2, s.mem.refuses (s.st.rd.buf + (s.st.rd.idx + BitVec.ofNat 16 k).setWidth 32).toNat = false) ∧
    (let s := reading .dataRd .rxNotEmpty 3 1 [0x10] 0x2C
     s.st.dsrc ≠ .txUnderflow ∧ s.scb.pend.getLsbD (sourceBit (dataSource s.st.dsrc)) = true ∧
       1 = min s.scb.rx.length (s.st.rd.len.toNat - s.st.rd.idx.toNat) ∧ s.scb.pend &&& 0x0C ≠ 0) ∧
    (let s := reading .dataRd .rxNotEmpty 3 1 [] 0x20
     0 = min s.scb.rx.length (s.st.rd.len.toNat - s.st.rd.idx.toNat)) := by and_intros <;> decide
/-- A hole at the first byte, and a hole at the last of two bytes. -/
theorem witness_ReadIntoHoleStuck :
    (let s := { reading .dataRd .rxNotEmpty 1 0 [0x10] 0x20 with mem := ⟨[], [⟨0x200, 1⟩]⟩ }
     s.moves = .interrupt :: [] ∧ s.st.armed ≠ .none ∧ s.st.stopPending = false ∧ s.st.state = .dataRd ∧
       s.st.dsrc ≠ .txUnderflow ∧ s.scb.pend.getLsbD (sourceBit (dataSource s.st.dsrc)) = true ∧
       0 < min s.scb.rx.length (s.st.rd.len.toNat - s.st.rd.idx.toNat) ∧
       s.mem.read (s.st.rd.buf + (s.st.rd.idx + BitVec.ofNat 16 0).setWidth 32) = none) ∧
    (let s := { reading .dataRd .rxFull 3 1 [0x10, 0x20, 0x30] 0x40 with mem := ⟨[], [⟨0x202, 1⟩]⟩ }
     s.moves = .interrupt :: [] ∧ s.st.armed ≠ .none ∧ s.st.stopPending = false ∧ s.st.state = .dataRd ∧
       s.st.dsrc ≠ .txUnderflow ∧ s.scb.pend.getLsbD (sourceBit (dataSource s.st.dsrc)) = true ∧
       1 < min s.scb.rx.length (s.st.rd.len.toNat - s.st.rd.idx.toNat) ∧
       (∀ j < 1, s.mem.read (s.st.rd.buf + (s.st.rd.idx + BitVec.ofNat 16 j).setWidth 32) ≠ none) ∧
       s.mem.read (s.st.rd.buf + (s.st.rd.idx + BitVec.ofNat 16 1).setWidth 32) = none) := by and_intros <;> decide
/-- Byte 0 of an address phase, and the last byte of a data phase. -/
theorem witness_WriteFromHoleStuck :
    (let s := { writing .addrWr 1 0 0x0F with mem := ⟨[], [⟨0x300, 1⟩]⟩ }
     s.moves = .interrupt :: [] ∧ s.st.stopPending = false ∧ s.scb.pend.getLsbD 0 = true ∧ s.st.armed = .write ∧
       s.st.state = .addrWr ∧ s.st.wr.len ≠ 0 ∧ s.mem.read s.st.wr.buf = none) ∧
    (let s := { writing .dataWr 3 1 0x01 with mem := ⟨[], [⟨0x302, 1⟩]⟩ }
     s.moves = .interrupt :: [] ∧ s.st.stopPending = false ∧ s.scb.pend.getLsbD 0 = true ∧ s.st.armed ≠ .none ∧
       s.st.state = .dataWr ∧ s.st.wr.idx + 1 ≠ s.st.wr.len ∧
       s.mem.read (s.st.wr.buf + (s.st.wr.idx + 1).setWidth 32) = none) := by and_intros <;> decide
theorem witness_BufferedStopCompletes :
    (let s := machine { engine .dataWr .write .none with armed := .write, stopPending := true } 0x1C [.interrupt]
     s.moves = .interrupt :: [] ∧ s.st.armed ≠ .none ∧ s.st.stopPending = true ∧ s.scb.pend.getLsbD 4 = true) := by decide
/-- A resolve step and an interrupt step that each have an unchosen watched source pending. -/
theorem witness_UnchosenSourcesAreLost :
    (let s := waiting .addr .addrWr .write 0x0F
     s.moves = .resolve :: [] ∧ (∃ t, step s = .next t) ∧ ¬s.EntersFault .resolve ∧ Source.mNack ∈ waitOrder s.st.op) ∧
    (let s := reading .dataRd .rxNotEmpty 2 1 [0x10] 0x2C
     s.Inv ∧ s.moves = .interrupt :: [] ∧ (∃ t, step s = .next t) ∧ ¬s.EntersFault .interrupt ∧
       ∃ w, interruptWatch s.st = some w ∧ Source.mArbLost ∈ w.order) := by
  refine ⟨⟨rfl, ⟨_, rfl⟩, ?_, by decide⟩, ?_, rfl, ⟨_, rfl⟩, ?_, _, rfl, by decide⟩
  · rintro ⟨o, ho, h⟩
    cases ho
    exact h.elim nofun nofun
  · exact reading_inv_pend 0x2C
  · rintro ⟨c, hc, h⟩
    cases hc
    exact h.elim nofun nofun
/-- Each row of InterruptPathFault, with both faults pending or with the bus error alone. -/
theorem witness_InterruptPathFault :
    (let s := machine { engine .dataWr .write .none with armed := .write, stopPending := true } 0x0C [.interrupt]
     s.moves = .interrupt :: [] ∧ s.st.armed ≠ .none ∧ s.scb.pend.getLsbD 2 = true ∧ s.st.stopPending = true ∧
       s.scb.pend.getLsbD 4 = false) ∧
    (let s := reading .addrRd .rxFull 3 0 [] 0x08
     s.st.armed ≠ .none ∧ s.scb.pend.getLsbD 2 = false ∧ s.scb.pend.getLsbD 3 = true ∧ s.st.stopPending = false ∧
       s.st.state = .addrRd ∧ s.scb.pend &&& 0x03 = 0) ∧
    (let s := writing .dataWr 3 1 0x84
     s.st.armed ≠ .none ∧ s.scb.pend.getLsbD 2 = true ∧ s.st.stopPending = false ∧ s.st.state = .dataWr ∧
       s.scb.pend &&& 0x03 = 0) ∧
    (let s := reading .dataRd .rxNotEmpty 3 0 [] 0x04
     s.st.armed ≠ .none ∧ s.scb.pend.getLsbD 2 = true ∧ s.st.stopPending = false ∧ s.st.state = .dataRd ∧
       s.st.dsrc = .rxNotEmpty ∧ s.scb.pend.getLsbD 5 = false) ∧
    (let s := reading .dataRd .rxFull 3 0 [] 0x28
     s.st.armed ≠ .none ∧ s.scb.pend.getLsbD 2 = false ∧ s.scb.pend.getLsbD 3 = true ∧ s.st.stopPending = false ∧
       s.st.state = .dataRd ∧ s.st.dsrc = .rxFull ∧ s.scb.pend.getLsbD 6 = false) ∧
    (let s := reading .dataRd .txUnderflow 3 0 [] 0x04
     s.st.armed ≠ .none ∧ s.scb.pend.getLsbD 2 = true ∧ s.st.stopPending = false ∧ s.st.state = .dataRd ∧
       s.st.dsrc = .txUnderflow ∧ s.scb.pend.getLsbD 7 = false) := by and_intros <;> decide
theorem witness_ArmedEngineRefusesTransactions : (writing .dataWr 3 1 0x01).Inv ∧ (writing .dataWr 3 1 0x01).st.armed ≠ .none ∧
    ∃ d, Instr.wrbyte 0xFF = .wrbyte d := ⟨writing_inv, by decide, _, rfl⟩
theorem witness_ClearUnderRunningWrite :
    (let s := writing .dataWr 3 2 0
     s.st.armed = .write ∧ s.st.state = .dataWr ∧ s.st.stopPending = false ∧ 1 < s.st.wr.len ∧
       s.mem.read (s.st.wr.buf + 1) = some 0x02 ∧ ∃ t, exec .clrwbuf s = .next t) := by
  refine ⟨by decide, by decide, by decide, by decide, by decide, _, rfl⟩
theorem witness_StopOverBufferedTransfer :
    (let s := writing .dataWr 3 1 0
     s.st.op = .none ∧ s.st.armed ≠ .none ∧ s.st.state ≠ .idle ∧ ∃ t, exec .stop s = .next t) :=
  ⟨by decide, by decide, by decide, _, rfl⟩
theorem witness_StaleAckIsTaken :
    (let s := machine Engine.reset 0x01 []
     s.st.op = .none ∧ s.st.state = .idle ∧ s.scb.busy = false ∧ s.scb.pend.getLsbD 0 = true ∧
       ∃ t, exec (.start 0x50 .read) s = .next t) := ⟨by decide, by decide, by decide, by decide, _, rfl⟩
theorem witness_RestartWorkaround : (State.reset.st.op = .none ∧ State.reset.st.state = .idle) ∧
    (let s := machine (engine .dataRd .read .none) 0 []
     s.st.op = .none ∧ s.st.state ≠ .idle ∧ s.st.dir = .read) ∧
    (let s := machine (engine .halted .write .wrAck) 0 []
     s.st.op = .none ∧ s.st.state ≠ .idle ∧ s.st.dir = .write) := by decide
/-- The second part is the hypothesis of StatusReads' last clause. -/
theorem witness_CountAccessors_BufferClears_StatusReads : State.reset.st.op = .none ∧ ∃ t, exec .clrstat State.reset = .next t := ⟨rfl, _, rfl⟩
theorem witness_EnvironmentMoves : (scheduled (.env (.raise 0xFF))).moves = .env (.raise 0xFF) :: [] ∧
    (scheduled (.env (.lower 0x01))).moves = .env (.lower 0x01) :: [] ∧
    (scheduled (.env (.rxPush 0x5A))).scb.rx.length < Config.fifoDepth ∧
    (let s := { scheduled (.env (.rxPush 0x5A)) with scb := ⟨0, List.replicate Config.fifoDepth 0, [], false, true⟩ }
     s.moves = .env (.rxPush 0x5A) :: [] ∧ Config.fifoDepth ≤ s.scb.rx.length) ∧
    (let s := { scheduled (.env .txPop) with scb := ⟨0, [], [0xA0], false, true⟩ }
     s.moves = .env .txPop :: [] ∧ s.scb.tx = 0xA0 :: []) ∧
    ((scheduled (.env .txPop)).moves = .env .txPop :: [] ∧ (scheduled (.env .txPop)).scb.tx = []) ∧
    (scheduled (.env (.setBusy true))).moves = .env (.setBusy true) :: [] :=
  ⟨rfl, rfl, Nat.succ_pos _, ⟨rfl, by simp⟩, ⟨rfl, rfl⟩, ⟨rfl, rfl⟩, rfl⟩
theorem witness_ResetValues : (scheduled .driverInit).moves = .driverInit :: [] := rfl
theorem witness_StepKeepsInv : (writing .dataWr 3 1 0x01).Inv ∧ ∃ t, step (writing .dataWr 3 1 0x01) = .next t :=
  ⟨writing_inv, _, rfl⟩
theorem witness_QuiescentHasNoEngineStep : (scheduled .resolve).Quiescent ∧ (scheduled .resolve).moves = .resolve :: [] ∧
    (scheduled .interrupt).Quiescent ∧ (scheduled .interrupt).moves = .interrupt :: [] := by decide
theorem witness_CommandFrames : ∃ t, exec (.qwrite 0x50 .start .stop) State.reset = .next t := ⟨_, rfl⟩
/-- A host read; an interrupt step of a write; an interrupt step of a read, with a byte outside the buffer. -/
theorem witness_CallerMemoryTouchedOnlyByReads :
    (let s := { writing .dataWr 3 1 0x01 with moves := [.hostRead 0xC 4] }
     s.Inv ∧ s.moves = .hostRead 0xC 4 :: [] ∧ ∃ t, step s = .next t) ∧
    (let s := writing .dataWr 3 1 0x01
     s.Inv ∧ s.moves = .interrupt :: [] ∧ s.st.armed ≠ .read ∧ ∃ t, step s = .next t) ∧
    (let s := reading .dataRd .rxNotEmpty 2 1 [0x10] 0x20
     s.Inv ∧ s.moves = .interrupt :: [] ∧ ∃ t, step s = .next t ∧
       ∀ k, s.st.rd.idx.toNat ≤ k → k < t.st.rd.idx.toNat → (0x200 : Addr) ≠ s.st.rd.buf + BitVec.ofNat 32 k) := by
  refine ⟨⟨writing_inv.withMoves _, rfl, _, rfl⟩, ⟨writing_inv, rfl, by decide, _, rfl⟩, reading_inv, rfl, ?_⟩
  refine ⟨_, rfl, fun k h1 h2 => ?_⟩
  have hk : k = 1 := by
    have : k < 2 := h2
    have : 1 ≤ k := h1
    omega
  subst hk
  decide
/-- An index falls at CLRWBUF and at CLRRBUF, and rises at a counted write byte and at a drained read byte. -/
theorem witness_IndexFallsOnlyByClearOrSetup :
    (let s := { writing .dataWr 3 1 0x01 with moves := [.hostWrite 0x0 4 0xA] }
     s.Inv ∧ s.moves = .hostWrite 0x0 4 0xA :: [] ∧ ∃ t, step s = .next t ∧ t.st.wr.idx < s.st.wr.idx) ∧
    (let s := { reading .dataRd .rxNotEmpty 2 1 [0x10] 0x20 with moves := [.hostWrite 0x0 4 0xB] }
     s.Inv ∧ s.moves = .hostWrite 0x0 4 0xB :: [] ∧ ∃ t, step s = .next t ∧ t.st.rd.idx < s.st.rd.idx) ∧
    (let s := writing .dataWr 3 1 0x01
     s.Inv ∧ s.moves = .interrupt :: [] ∧ ∃ t, step s = .next t ∧ s.st.wr.idx < t.st.wr.idx) ∧
    (let s := reading .dataRd .rxNotEmpty 2 1 [0x10] 0x20
     s.Inv ∧ s.moves = .interrupt :: [] ∧ ∃ t, step s = .next t ∧ s.st.rd.idx < t.st.rd.idx) :=
  ⟨⟨writing_inv.withMoves _, rfl, _, rfl, by decide⟩, ⟨reading_inv.withMoves _, rfl, _, rfl, by decide⟩,
    ⟨writing_inv, rfl, _, rfl, by decide⟩, ⟨reading_inv, rfl, _, rfl, by decide⟩⟩
theorem witness_OnlyForegroundWritesRsp : (writing .dataWr 3 1 0x01).moves = .interrupt :: [] ∧
    (∃ t, step (writing .dataWr 3 1 0x01) = .next t) ∧ (∀ w, Move.interrupt ≠ .hostWrite 0x0 4 w) ∧
    Move.interrupt ≠ .resolve ∧ Move.interrupt ≠ .driverInit := ⟨rfl, ⟨_, rfl⟩, by simp, by decide, by decide⟩
/-- A resolve step that classifies a fault, one that does not, an interrupt step that does, and RSTWA in a write. -/
theorem witness_SoftResetsAreCounted_OnlySevenMasterCommands :
    (let s := waiting .addr .addrWr .write 0x04
     s.moves = .resolve :: [] ∧ Move.resolve ≠ .driverInit ∧ (∃ t, step s = .next t) ∧ s.EntersFault .resolve) ∧
    (let s := waiting .addr .addrWr .write 0x05
     s.moves = .resolve :: [] ∧ (∃ t, step s = .next t) ∧ ¬s.EntersFault .resolve) ∧
    (let s := writing .dataWr 3 1 0x08
     s.moves = .interrupt :: [] ∧ Move.interrupt ≠ .driverInit ∧ (∃ t, step s = .next t) ∧ s.EntersFault .interrupt) ∧
    (let s := machine (engine .halted .write .wrAck) 0 [.hostWrite 0x0 4 0xE]
     s.moves = .hostWrite 0x0 4 0xE :: [] ∧ Move.hostWrite 0x0 4 0xE ≠ .driverInit ∧ (∃ t, step s = .next t) ∧
       s.EntersWriteWorkaround (.hostWrite 0x0 4 0xE)) := by
  refine ⟨⟨rfl, by decide, ⟨_, rfl⟩, _, rfl, .inl rfl⟩, ⟨rfl, ⟨_, rfl⟩, ?_⟩,
    ⟨rfl, by decide, ⟨_, rfl⟩, _, rfl, .inr rfl⟩, rfl, by decide, ⟨_, rfl⟩, rfl, by decide, rfl⟩
  rintro ⟨o, ho, h⟩
  cases ho
  exact h.elim nofun nofun
theorem witness_XferInpIsComputed : (writing .dataWr 3 1 0x01).Inv ∧ ∃ t, exec .getstat (writing .dataWr 3 1 0x01) = .next t :=
  ⟨writing_inv, _, rfl⟩

end Sys2Proof.Tests
end

/-! PROOFS. The classification of pending sources (00_scope.md R14) and the row of R135 for an armed read. -/

namespace Sys2Proof.Machine

/-- The recursion of R14 is the library's search for the first member that satisfies a test: here, that its bit is set. -/
theorem classify_eq_find? (p : Byte) (order : List Source) :
    classify p order = order.find? fun o => p.getLsbD (sourceBit o) := by
  induction order with
  | nil => rfl
  | cons x rest ih => cases hx : p.getLsbD (sourceBit x) <;> simp [classify, hx, ih]

theorem classify_eq_some_iff {p : Byte} {order : List Source} {o : Source} :
    classify p order = some o ↔
      ∃ before after, order = before ++ o :: after ∧ p.getLsbD (sourceBit o) = true ∧
        ∀ x ∈ before, p.getLsbD (sourceBit x) = false := by
  refine ⟨classify_some, ?_⟩
  rintro ⟨before, after, horder, hset, hbefore⟩
  rw [classify_eq_find?, List.find?_eq_some_iff_append]
  exact ⟨hset, before, after, horder, by simpa using hbefore⟩

theorem classify_eq_none_iff {p : Byte} {order : List Source} :
    classify p order = none ↔ ∀ x ∈ order, p.getLsbD (sourceBit x) = false := by
  simp [classify_eq_find?]

/-- In the data phase of an armed read the path watches the armed data source first, then the two faults (R135). -/
theorem interruptWatch_of_dataRd {e : Engine} (hstate : e.state = .dataRd) (hstop : e.stopPending = false) :
    interruptWatch e = some ⟨[dataSource e.dsrc, .mArbLost, .mBusErr],
      sourceMask (dataSource e.dsrc) ||| sourceMask .mArbLost ||| sourceMask .mBusErr⟩ := by
  simp [interruptWatch, hstate, hstop]

/-- Settles O11: `classify` is the library's `find?`, and the watched list of an armed read starts with its data source. -/
theorem classifyTakesFirstPending : Obligations.ClassifyTakesFirstPending := by
  refine ⟨fun _ _ _ => classify_eq_some_iff, fun _ _ => classify_eq_none_iff, rfl, rfl, rfl, fun e hstate hstop => ?_⟩
  rw [interruptWatch_of_dataRd hstate hstop]
  constructor <;> intro hdsrc <;> rw [hdsrc] <;> rfl

end Sys2Proof.Machine

/-! PROOFS. The host port (10_state.md R31 to R34), the moves of the SCB environment (R36) and the reset values (R39). -/

namespace Sys2Proof.Machine

/-- The head of the schedule runs, with the rest left to come (R38). -/
theorem step_of_moves {s : State} {m : Move} {rest : List Move} (h : s.moves = m :: rest) :
    step s = runMove m { s with moves := rest } := by
  unfold step
  rw [h]

theorem commandWrite_of_decode {s : State} {w : Word} {i : Instr} (hop : s.st.op = .none) (hi : decode w = .ok i) :
    commandWrite w s = exec i s := by
  simp [commandWrite, busyBit, hop, hi]

theorem commandWrite_of_busy {s : State} (w : Word) (hop : s.st.op ≠ .none) :
    commandWrite w s = .refused (.cmdWhileBusy w) := by
  simp [commandWrite, busyBit, hop]

/-- Settles O6: a word that `withFetchWord` places is a CMD write with the old schedule behind it. -/
theorem stepRunsDecodedCommand : Obligations.StepRunsDecodedCommand := by
  constructor
  · intro s w i rest hm hop hi
    rw [step_of_moves hm]
    exact commandWrite_of_decode hop hi
  · intro s w i hop hi
    have hw : BitVec.ofNat 32 (w.toNat % 2 ^ 32) = w := by
      rw [Nat.mod_eq_of_lt w.isLt, BitVec.ofNat_toNat, BitVec.setWidth_eq]
    rw [step_of_moves (rest := s.moves) rfl, hw]
    exact commandWrite_of_decode hop hi

/-- Settles O7. -/
theorem commandWhileBusyRefused : Obligations.CommandWhileBusyRefused := by
  intro s w rest hm hop
  rw [step_of_moves hm]
  exact commandWrite_of_busy w hop

/-- Settles O8: each access is one register's (R32), and ARG_LEN's 16 bits are the low ones. -/
theorem hostRegistersReadAndWrite : Obligations.HostRegistersReadAndWrite := by
  refine ⟨fun s rest => ⟨?_, ?_, ?_, ?_⟩, fun s v rest => ⟨?_, ?_, ?_⟩, rfl, rfl, by decide⟩
  all_goals
    intro hm
    rw [step_of_moves hm]
    rfl

/-! ### The fields of the RSP word (R33) -/

theorem rspWord_code (s : State) : (rspWord s).extractLsb' 0 4 = resultCodeNumber s.rsp.code :=
  BitVec.extractLsb'_append_eq_right

theorem rspWord_reserved (s : State) : (rspWord s).extractLsb' 4 3 = 0 :=
  (BitVec.extractLsb'_append_eq_of_le (Nat.le_refl 4)).trans BitVec.extractLsb'_append_eq_right

theorem rspWord_busy (s : State) : (rspWord s).getLsbD 7 = busyBit s := by
  simp only [rspWord, BitVec.getLsbD_append]
  simp

theorem rspWord_data (s : State) : (rspWord s).extractLsb' 8 8 = s.rsp.data := by
  unfold rspWord
  iterate 3 rw [BitVec.extractLsb'_append_eq_of_le (by decide)]
  exact BitVec.extractLsb'_append_eq_right

theorem rspWord_value (s : State) : (rspWord s).extractLsb' 16 16 = s.rsp.value := by
  unfold rspWord
  iterate 3 rw [BitVec.extractLsb'_append_eq_of_le (by decide)]
  exact BitVec.extractLsb'_append_eq_left

/-- After `respond` BUSY is 0, so it joins the three reserved zeros. -/
theorem rspWord_respond (c : ResultCode) (d : Byte) (v : BitVec 16) (s : State) :
    rspWord (respond c d v s) = v ++ d ++ 0#4 ++ resultCodeNumber c :=
  congrArg (· ++ resultCodeNumber c) (BitVec.append_assoc (x₁ := v ++ d) (x₂ := 0#1) (x₃ := 0#3))

/-- Settles O9, field by field. -/
theorem rspWordFields : Obligations.RspWordFields := by
  refine ⟨by decide, fun s => ⟨rspWord_code s, rspWord_reserved s, ?_, rspWord_data s, rspWord_value s,
    fun c d v => rspWord_respond c d v s⟩⟩
  rw [rspWord_busy, busyBit, decide_eq_true_eq]

/-! ### The environment and reset -/

/-- Settles O45: a FIFO move has a step exactly when the FIFO allows it (R36). -/
theorem environmentMoves : Obligations.EnvironmentMoves := by
  intro s rest
  refine ⟨fun m hm => ?_, fun m hm => ?_, fun b hm hlt => ?_, fun b hm hge => ?_, fun b more hm htx => ?_,
    fun hm htx => ?_, fun v hm => ?_⟩
  all_goals rw [step_of_moves hm]
  · rfl
  · rfl
  · exact if_pos hlt
  · exact if_neg (Nat.not_lt.mpr hge)
  · simp [runMove, envStep, htx]
  · simp [runMove, envStep, htx, noStep]
  · rfl

/-- Settles O46. -/
theorem resetValues : Obligations.ResetValues := by
  refine ⟨⟨rfl, rfl, rfl, rfl, rfl, rfl⟩, fun s rest hm => ?_⟩
  rw [step_of_moves hm]
  rfl

end Sys2Proof.Machine

/-! PROOFS. What a step of each agent makes of the engine's fields, each agent's step said once (10_state.md R36, R38). -/

namespace Sys2Proof.Machine

/-! ### The foreground: issue steps -/

/-- The engine's fields after a setup of a direction that clears the flags `f` (R132, R133, R134). -/
def Engine.setup (d : Dir) (x : Descriptor) (ctl : MasterControl) (f : Byte) (e : Engine) : Engine :=
  { setDescriptor d x e with
    ctl := ctl, status := clearFlags f e.status, dir := d, haltCause := .none, stopPending := false
    state := addrState d, armed := armedOf d, dsrc := setupSource d x.len, op := .none }

/-- What the issue step of a command can make of the engine's fields (R95 to R101, R131 to R134, R180 to R185, R170). -/
inductive Engine.Issues : Instr → Engine → Engine → Prop
  /-- a refusal, or a command that only answers -/
  | answered (i : Instr) (e : Engine) : Issues i e { e with op := .none }
  | start (a : SlaveAddr) (r : Dir) (e : Engine) (h : e.state = .idle) :
      Issues (.start a r) e { e with dir := r, state := addrState r, op := .addr }
  | restart (a : SlaveAddr) (r : Dir) (e : Engine) (h : restartAllowed e = true) :
      Issues (.restart a r) e { e with dir := r, state := addrState r, haltCause := .none, op := .addr }
  | stop (e : Engine) (h : e.state ≠ .idle) :
      Issues .stop e { e with armed := .none, stopPending := false, op := .stop }
  | wrbyte (d : Byte) (e : Engine) (h : writeByteAllowed e = true) :
      Issues (.wrbyte d) e { e with state := .dataWr, haltCause := .none, op := .wr }
  | rdbyte (k : AckPolicy) (e : Engine) (h : readByteAllowed e = true) :
      Issues (.rdbyte k) e { e with op := .rd k }
  | qwrite (a : SlaveAddr) (p : StartPolicy) (c : ComplPolicy) (e : Engine) (buf : Addr) (len : Len) (f : Byte) :
      Issues (.qwrite a p c) e (e.setup .write ⟨buf, len, 0⟩ ⟨p, c⟩ f)
  | qread (a : SlaveAddr) (p : StartPolicy) (c : ComplPolicy) (e : Engine) (buf : Addr) (len : Len) (f : Byte) :
      Issues (.qread a p c) e (e.setup .read ⟨buf, len, 0⟩ ⟨p, c⟩ f)
  | clrwbuf (e : Engine) :
      Issues .clrwbuf e { e with
        wr := { e.wr with idx := 0 }, status := clearFlags flagWrCmplt e.status, op := .none }
  | clrrbuf (e : Engine) :
      Issues .clrrbuf e { e with
        rd := { e.rd with idx := 0 }, status := clearFlags flagRdCmplt e.status, op := .none }
  | clrstat (e : Engine) : Issues .clrstat e { e with status := 0x00, op := .none }

theorem clearFlags_clearFlags (f g w : Byte) : clearFlags f (clearFlags g w) = clearFlags (g ||| f) w := by
  simp [clearFlags, BitVec.not_or, BitVec.and_assoc]

/-- A buffered command either answers without a change or arms its direction (R131, R132). -/
theorem queueTransfer_st (a : SlaveAddr) (d : Dir) (p : StartPolicy) (c : ComplPolicy) (s : State) :
    (queueTransfer a d p c s).st = { s.st with op := .none } ∨
    ∃ f, (queueTransfer a d p c s).st = s.st.setup d (newDescriptor s) ⟨p, c⟩ f := by
  unfold queueTransfer
  cases qCheck s with
  | nullBuffer => exact .inl rfl
  | illegalState => exact .inl rfl
  | busy => exact .inl rfl
  | fresh =>
    refine .inr ⟨completionFlag (armedOf d), ?_⟩
    cases d <;> simp [qSetup, Engine.setup, setDescriptor, newDescriptor]
  | resume =>
    refine .inr ⟨flagXferHalt ||| completionFlag (armedOf d), ?_⟩
    cases d <;> simp [qSetup, Engine.setup, setDescriptor, newDescriptor, clearFlags_clearFlags]

theorem exec_issues {i : Instr} {s t : State} (h : exec i s = .next t) : Engine.Issues i s.st t.st := by
  cases i with
  | start a r =>
    simp only [exec, execStart] at h
    cases h
    split
    · exact .answered ..
    · split
      · exact .answered ..
      · next hidle _ => simpa using Engine.Issues.start a r s.st (by simpa using hidle)
  | restart a r =>
    simp only [exec, execRestart] at h
    cases h
    split
    · next hok => simpa using Engine.Issues.restart a r s.st hok
    · exact .answered ..
  | stop =>
    simp only [exec, execStop] at h
    cases h
    split
    · exact .answered ..
    · next hidle => exact .stop s.st hidle
  | wrbyte d =>
    simp only [exec, execWrbyte] at h
    cases h
    split
    · next hok => exact .wrbyte d s.st hok
    · exact .answered ..
  | rdbyte k =>
    simp only [exec, execRdbyte] at h
    cases h
    split
    · next hok => exact .rdbyte k s.st hok
    · exact .answered ..
  | qwrite a p c =>
    cases h
    rcases queueTransfer_st a .write p c s with hst | ⟨f, hst⟩ <;> rw [hst]
    · exact .answered ..
    · exact .qwrite ..
  | qread a p c =>
    cases h
    rcases queueTransfer_st a .read p c s with hst | ⟨f, hst⟩ <;> rw [hst]
    · exact .answered ..
    · exact .qread ..
  | getwcnt => cases h; exact .answered ..
  | getrcnt => cases h; exact .answered ..
  | clrwbuf => cases h; exact .clrwbuf s.st
  | clrrbuf => cases h; exact .clrrbuf s.st
  | getstat => cases h; exact .answered ..
  | clrstat => cases h; exact .clrstat s.st
  | rstwa =>
    simp only [exec, execRstwa] at h
    cases h
    split
    · exact .answered ..
    · split <;> exact .answered ..

/-! ### The foreground: resolve steps -/

/-- The engine's fields after FR_FORCE_IDLE (R206). -/
def Engine.forcedIdle (e : Engine) : Engine :=
  { e with state := .idle, haltCause := .none, ctl := MasterControl.zero, armed := .none, stopPending := false, op := .none }

/-- What the resolve step of a wait can make of the engine's fields (R94, R98, R100, R102). -/
inductive Engine.Resolves (e : Engine) : Engine → Prop
  | acked (h : e.op = .addr) : Resolves e { e with state := dataState e.dir, op := .none }
  | halted (h : e.op ≠ .none) (c : HaltCause) (hc : c ≠ .none) :
      Resolves e { e with state := .halted, haltCause := c, op := .none }
  | readOn (h : e.op ≠ .none) : Resolves e { e with op := .none }
  | stopped (h : e.op = .stop) :
      Resolves e { e with state := .idle, haltCause := .none, ctl := MasterControl.zero, op := .none }
  | faulted : Resolves e e.forcedIdle

theorem faultRecover_foreground_st (kind : FaultKind) (m : Byte) (s : State) :
    (faultRecover kind m .foreground s).st = s.st.forcedIdle :=
  (faultRecover_fields kind m .foreground s).1

theorem resolveStep_resolves {s t : State} (h : resolveStep s = .next t) : s.st.Resolves t.st := by
  obtain ⟨o, ho, hby⟩ := resolveStep_next h
  have fault (kind : FaultKind) (m : Byte) :
      s.st.Resolves (faultRecover kind m .foreground (endWait (scbPending s))).st := by
    rw [faultRecover_foreground_st]
    exact .faulted
  cases hop : s.st.op with
  | none => rw [hop] at hby; cases hby
  | addr =>
    rw [hop] at hby
    cases o <;> cases hby
    · exact .acked hop
    · exact .halted (by simp [hop]) .addrNak (by decide)
    · exact fault ..
    · exact fault ..
  | wr =>
    rw [hop] at hby
    cases o <;> cases hby
    · exact .halted (by simp [hop]) .wrAck (by decide)
    · exact .halted (by simp [hop]) .dataNak (by decide)
    · exact fault ..
    · exact fault ..
  | rd k =>
    rw [hop] at hby
    cases o <;> cases hby
    · exact fault ..
    · exact fault ..
    · cases k with
      | ack => simpa [answerByte] using Engine.Resolves.readOn (e := s.st) (by simp [hop])
      | nack => simpa [answerByte] using Engine.Resolves.halted (e := s.st) (by simp [hop]) .rdNak (by decide)
  | stop =>
    rw [hop] at hby
    cases o <;> cases hby
    · exact fault ..
    · exact fault ..
    · exact .stopped hop

/-! ### The interrupt path -/

/-- The descriptor of a direction (R29). -/
def Engine.desc (d : Dir) (e : Engine) : Descriptor :=
  match d with
  | .write => e.wr
  | .read => e.rd

/-- A transfer of direction `d` is armed: no wait runs, and the engine is in the address phase with nothing counted, or in the data
phase with bytes to go or with its Stop issued (R40 items 4 to 6; log 22). -/
structure Engine.ArmedFor (d : Dir) (e : Engine) : Prop where
  armed : e.armed = armedOf d
  dir : e.dir = d
  op : e.op = .none
  source : e.dsrc = .txUnderflow ↔ d = .write
  phase : (e.state = addrState d ∧ e.stopPending = false ∧ (e.desc d).idx = 0) ∨
    (e.state = dataState d ∧ (e.stopPending = false → (e.desc d).idx < (e.desc d).len))

/-- The engine's fields in the data phase of a transfer whose index is `i` (R136, R138, R141). -/
def Engine.counted (d : Dir) (i : Len) (src : DataSource) (e : Engine) : Engine :=
  { setDescriptor d { e.desc d with idx := i } e with state := dataState d, dsrc := src }

/-- What a step of the interrupt path can make of the engine's fields (R136 to R144). -/
inductive Engine.Continues (d : Dir) (e : Engine) : Engine → Prop
  | counted (i : Len) (src : DataSource) (hlo : (e.desc d).idx ≤ i) (hlt : i < (e.desc d).len)
      (hsrc : src = .txUnderflow ↔ d = .write) (hstop : e.stopPending = false) : Continues d e (e.counted d i src)
  | stopIssued (hle : (e.desc d).idx ≤ (e.desc d).len) :
      Continues d e { e.counted d (e.desc d).len e.dsrc with stopPending := true }
  | halted (i : Len) (c : HaltCause) (f : Byte) (hlo : (e.desc d).idx ≤ i) (hle : i ≤ (e.desc d).len) (hc : c ≠ .none)
      (hf : f.getLsbD 2 = false) (hstop : e.stopPending = false) :
      Continues d e { e.counted d i e.dsrc with
        state := .halted, haltCause := c, status := setFlags f e.status, armed := .none }
  | stopped :
      Continues d e { e with
        status := setFlags (completionFlag e.armed) e.status, state := .idle, haltCause := .none
        ctl := MasterControl.zero, stopPending := false, armed := .none }
  | faulted (f : Byte) (hf : f.getLsbD 2 = false) :
      Continues d e { e.forcedIdle with status := setFlags f e.status }

theorem completionFlag_getLsbD_two (a : Armed) : (completionFlag a).getLsbD 2 = false := by cases a <;> rfl

/-- The two ends of a transfer (R142). -/
theorem complete_st (s : State) :
    (complete s).st = { s.st with stopPending := true } ∨
    (complete s).st = { s.st with
      state := .halted, haltCause := .bufHalt, status := setFlags (completionFlag s.st.armed ||| flagXferHalt) s.st.status
      armed := .none } := by
  unfold complete
  split
  · exact .inl rfl
  · exact .inr rfl

/-- A transfer all of whose bytes are counted ends by its completion policy (R142). -/
theorem complete_continues {d : Dir} {e : Engine} {s : State} (hle : (e.desc d).idx ≤ (e.desc d).len)
    (hstop : e.stopPending = false) (hst : s.st = e.counted d (e.desc d).len e.dsrc) :
    e.Continues d (complete s).st := by
  have hstatus : s.st.status = e.status := by rw [hst]; cases d <;> rfl
  rcases complete_st s with h | h <;> rw [h]
  · rw [hst]
    exact .stopIssued hle
  · rw [hstatus, hst]
    refine .halted _ .bufHalt _ hle (BitVec.le_refl _) (by decide) ?_ hstop
    rw [BitVec.getLsbD_or, completionFlag_getLsbD_two]
    rfl

theorem Engine.counted_self (d : Dir) (e : Engine) :
    e.counted d (e.desc d).idx e.dsrc = { e with state := dataState d } := by
  cases d <;> rfl

theorem Engine.counted_eq_self {d : Dir} {e : Engine} (hstate : e.state = dataState d) :
    e.counted d (e.desc d).idx e.dsrc = e := by
  rw [Engine.counted_self, ← hstate]

/-- An address ACK enters the data phase, and completes an empty transfer (R136). -/
theorem bufferedAddrAck_st {d : Dir} {s t : State} (harmed : s.st.armed = armedOf d) (h : bufferedAddrAck s = .ok t) :
    ((s.st.desc d).len = 0 ∧ ∃ u : State, u.st = { s.st with state := dataState d } ∧ t = complete u) ∨
    ((s.st.desc d).len ≠ 0 ∧ t.st = { s.st with state := dataState d }) := by
  simp only [bufferedAddrAck] at h
  cases d with
  | write =>
    have hwrite : (scbClear maskAddr s).st.armed = .write := harmed
    rw [if_pos hwrite] at h
    split at h
    · next hlen => cases h; exact .inl ⟨hlen, _, rfl, rfl⟩
    · next hlen =>
      split at h
      · cases h
      · next hu =>
        obtain ⟨v, -, rfl⟩ := queueByte_ok hu
        cases h
        exact .inr ⟨hlen, rfl⟩
  | read =>
    have hread : (scbClear maskAddr s).st.armed ≠ .write := by simp [harmed, armedOf]
    rw [if_neg hread] at h
    split at h
    · next hlen => cases h; exact .inl ⟨hlen, _, rfl, rfl⟩
    · next hlen => cases h; exact .inr ⟨hlen, rfl⟩

/-- An ACKed byte is counted, and the last one completes the write (R138). -/
theorem bufferedByteAck_st {s t : State} (h : bufferedByteAck s = .ok t) :
    (s.st.wr.idx + 1 = s.st.wr.len ∧
      ∃ u : State, u.st = { s.st with wr := { s.st.wr with idx := s.st.wr.idx + 1 } } ∧ t = complete u) ∨
    (s.st.wr.idx + 1 ≠ s.st.wr.len ∧ t.st = { s.st with wr := { s.st.wr with idx := s.st.wr.idx + 1 } }) := by
  simp only [bufferedByteAck] at h
  split at h
  · next hend => cases h; exact .inl ⟨hend, _, rfl, rfl⟩
  · next hmore =>
    obtain ⟨v, -, rfl⟩ := queueByte_ok h
    exact .inr ⟨hmore, rfl⟩

/-- The end of a read step: the last byte completes the read, and near the end every byte is signalled (R141). -/
theorem afterDrain_st (m : Byte) (n : Nat) (s : State) :
    (s.st.rd.idx = s.st.rd.len ∧ ∃ u : State, u.st = s.st ∧ afterDrain m n s = complete u) ∨
    ((n ≠ 0 → s.st.rd.idx ≠ s.st.rd.len) ∧
      ((afterDrain m n s).st = s.st ∨ (afterDrain m n s).st = { s.st with dsrc := .rxNotEmpty })) := by
  simp only [afterDrain]
  split
  · next hn => exact .inr ⟨absurd hn, .inl rfl⟩
  · split
    · next hend => exact .inl ⟨hend, scbClear (readClearMask m s) s, rfl, rfl⟩
    · next hmore =>
      refine .inr ⟨fun _ => hmore, ?_⟩
      split
      · exact .inr rfl
      · exact .inl rfl

/-- In the address phase of a transfer, an ACK enters the data phase, or ends an empty transfer (R136). -/
theorem bufferedAddrAck_continues {d : Dir} {s t : State} (hd : s.st.ArmedFor d) (hidx : (s.st.desc d).idx = 0)
    (hstop : s.st.stopPending = false) (h : bufferedAddrAck s = .ok t) : s.st.Continues d t.st := by
  have hst := bufferedAddrAck_st hd.armed h
  rw [← Engine.counted_self] at hst
  rcases hst with ⟨hlen, u, hu, rfl⟩ | ⟨hlen, hst⟩
  · rw [hidx, ← hlen] at hu
    exact complete_continues (by rw [hidx, hlen]; exact BitVec.le_refl _) hstop hu
  · rw [hst]
    exact .counted _ _ (BitVec.le_refl _) (by rw [hidx]; bv_omega) hd.source hstop

/-- In the data phase of a write, an ACK counts one byte (R138). -/
theorem bufferedByteAck_continues {s t : State} (hd : s.st.ArmedFor .write) (hstate : s.st.state = .dataWr)
    (hstop : s.st.stopPending = false) (hlt : s.st.wr.idx < s.st.wr.len) (h : bufferedByteAck s = .ok t) :
    s.st.Continues .write t.st := by
  have hcounted : { s.st with wr := { s.st.wr with idx := s.st.wr.idx + 1 } } =
      s.st.counted .write (s.st.wr.idx + 1) s.st.dsrc := by
    simp [Engine.counted, Engine.desc, setDescriptor, dataState, ← hstate]
  have hst := bufferedByteAck_st h
  rw [hcounted] at hst
  rcases hst with ⟨hend, u, hu, rfl⟩ | ⟨hmore, hst⟩
  · rw [hend] at hu
    exact complete_continues (BitVec.le_of_lt hlt) hstop hu
  · rw [hst]
    refine .counted _ _ ?_ ?_ hd.source hstop <;> simp only [Engine.desc] <;> bv_omega

/-- The end of a read step that counted up to index `i` (R141). -/
theorem afterDrain_continues {e : Engine} {u : State} {i : Len} {n : Nat} (m : Byte) (hu : u.st = e.counted .read i e.dsrc)
    (hlo : e.rd.idx ≤ i) (hle : i ≤ e.rd.len) (hnone : n = 0 → i ≠ e.rd.len) (hsource : e.dsrc ≠ .txUnderflow)
    (hstop : e.stopPending = false) : e.Continues .read (afterDrain m n u).st := by
  have hidx : u.st.rd.idx = i := by rw [hu]; rfl
  have hlen : u.st.rd.len = e.rd.len := by rw [hu]; rfl
  have more (hne : i ≠ e.rd.len) (src : DataSource) (hsrc : src ≠ .txUnderflow) :
      e.Continues .read (e.counted .read i src) :=
    .counted i src hlo (by simp only [Engine.desc]; bv_omega) (by simpa using hsrc) hstop
  rcases afterDrain_st m n u with ⟨hend, v, hv, hdone⟩ | ⟨hmore, hst⟩
  · rw [hidx, hlen] at hend
    rw [hu, hend] at hv
    rw [hdone]
    exact complete_continues (hend ▸ hlo) hstop hv
  · rw [hidx, hlen] at hmore
    have hne : i ≠ e.rd.len := by
      by_cases hn : n = 0
      · exact hnone hn
      · exact hmore hn
    rcases hst with hst | hst <;> rw [hst, hu]
    · exact more hne _ hsource
    · exact more hne .rxNotEmpty (by decide)

/-- In the data phase of a read, the bytes of the RX FIFO that are wanted are counted (R141). -/
theorem bufferedReadData_continues {m : Byte} {s t : State} (hd : s.st.ArmedFor .read) (hstate : s.st.state = .dataRd)
    (hstop : s.st.stopPending = false) (hlt : s.st.rd.idx < s.st.rd.len) (h : bufferedReadData m s = .ok t) :
    s.st.Continues .read t.st := by
  simp only [bufferedReadData] at h
  have hn : min s.scb.rx.length (remaining s.st.rd) ≤ s.st.rd.len.toNat - s.st.rd.idx.toNat := Nat.min_le_right _ _
  generalize min s.scb.rx.length (remaining s.st.rd) = n at h hn
  split at h
  · cases h
  · next u hu =>
    cases h
    obtain ⟨hust, -⟩ := drain_ok hu
    have hcounted : u.st = s.st.counted .read (s.st.rd.idx + BitVec.ofNat 16 n) s.st.dsrc := by
      simp [hust, Engine.counted, Engine.desc, setDescriptor, dataState, ← hstate]
    have hlo : s.st.rd.idx ≤ s.st.rd.idx + BitVec.ofNat 16 n := by bv_omega
    have hle : s.st.rd.idx + BitVec.ofNat 16 n ≤ s.st.rd.len := by bv_omega
    have hnone (h0 : n = 0) : s.st.rd.idx + BitVec.ofNat 16 n ≠ s.st.rd.len := by
      subst h0
      bv_omega
    exact afterDrain_continues m hcounted hlo hle hnone (by simp [hd.source]) hstop

theorem faultRecover_interruptPath_st (kind : FaultKind) (m : Byte) (s : State) :
    (faultRecover kind m .interruptPath s).st = { s.st.forcedIdle with status := setFlags (faultFlag kind) s.st.status } :=
  (faultRecover_fields kind m .interruptPath s).1

theorem faultRecover_continues (d : Dir) (kind : FaultKind) (m : Byte) (s : State) :
    s.st.Continues d (faultRecover kind m .interruptPath s).st := by
  rw [faultRecover_interruptPath_st]
  exact .faulted _ (by cases kind <;> rfl)

/-- A NACK before the last byte is counted halts the transfer (R137, R139). -/
theorem bufferedNack_continues (d : Dir) (m : Byte) {c : HaltCause} {f : Byte} {s : State} (hc : c ≠ .none)
    (hf : f.getLsbD 2 = false) (hle : (s.st.desc d).idx ≤ (s.st.desc d).len) (hstop : s.st.stopPending = false) :
    s.st.Continues d (bufferedNack m c f s).st := by
  have hflags : (f ||| flagXferHalt).getLsbD 2 = false := by rw [BitVec.getLsbD_or, hf]; rfl
  have := Engine.Continues.halted (s.st.desc d).idx c _ (BitVec.le_refl _) hle hc hflags hstop
  rwa [Engine.counted_self] at this

/-- A step of the interrupt path in the address phase (R135 to R137). -/
theorem continueWith_continues_of_addressPhase {d : Dir} {o : Source} {m : Byte} {s t : State} (hd : s.st.ArmedFor d)
    (hstate : s.st.state = addrState d) (hidx : (s.st.desc d).idx = 0) (hstop : s.st.stopPending = false)
    (ho : o ∈ orderAddr) (h : continueWith o m s = .ok t) : s.st.Continues d t.st := by
  have hphase : inAddressPhase s.st = true := by cases d <;> simp [inAddressPhase, hstate, addrState]
  cases o with
  | mAck =>
    rw [continueWith, if_pos hphase] at h
    exact bufferedAddrAck_continues hd hidx hstop h
  | mNack =>
    rw [continueWith, if_pos hphase] at h
    cases h
    exact bufferedNack_continues d _ (by decide) rfl (by rw [hidx]; bv_omega) hstop
  | mArbLost => cases h; exact faultRecover_continues ..
  | mBusErr => cases h; exact faultRecover_continues ..
  | mStop => simp [orderAddr] at ho
  | rxNotEmpty => simp [orderAddr] at ho
  | rxFull => simp [orderAddr] at ho
  | txUnderflow => simp [orderAddr] at ho

/-- A step of the interrupt path in the data phase of a write (R135, R138 to R140). -/
theorem continueWith_continues_of_writePhase {o : Source} {m : Byte} {s t : State} (hd : s.st.ArmedFor .write)
    (hstate : s.st.state = .dataWr) (hlt : s.st.wr.idx < s.st.wr.len) (hstop : s.st.stopPending = false)
    (ho : o ∈ orderAddr ++ [.txUnderflow]) (h : continueWith o m s = .ok t) : s.st.Continues .write t.st := by
  have hphase : ¬inAddressPhase s.st = true := by simp [inAddressPhase, hstate]
  cases o with
  | mAck =>
    rw [continueWith, if_neg hphase] at h
    exact bufferedByteAck_continues hd hstate hstop hlt h
  | mNack =>
    rw [continueWith, if_neg hphase] at h
    cases h
    exact bufferedNack_continues .write _ (by decide) rfl (BitVec.le_of_lt hlt) hstop
  | txUnderflow =>
    cases h
    have := Engine.Continues.counted (s.st.desc .write).idx _ (BitVec.le_refl _) hlt hd.source hstop
    rwa [Engine.counted_eq_self (d := .write) hstate] at this
  | mArbLost => cases h; exact faultRecover_continues ..
  | mBusErr => cases h; exact faultRecover_continues ..
  | mStop => simp [orderAddr] at ho
  | rxNotEmpty => simp [orderAddr] at ho
  | rxFull => simp [orderAddr] at ho

/-- A step of the interrupt path in the data phase of a read (R135, R141). -/
theorem continueWith_continues_of_readPhase {o : Source} {m : Byte} {s t : State} (hd : s.st.ArmedFor .read)
    (hstate : s.st.state = .dataRd) (hlt : s.st.rd.idx < s.st.rd.len) (hstop : s.st.stopPending = false)
    (ho : o ∈ [dataSource s.st.dsrc, .mArbLost, .mBusErr]) (h : continueWith o m s = .ok t) :
    s.st.Continues .read t.st := by
  have hsource : s.st.dsrc ≠ .txUnderflow := by simp [hd.source]
  cases o with
  | rxNotEmpty => exact bufferedReadData_continues hd hstate hstop hlt h
  | rxFull => exact bufferedReadData_continues hd hstate hstop hlt h
  | mArbLost => cases h; exact faultRecover_continues ..
  | mBusErr => cases h; exact faultRecover_continues ..
  | mAck => cases hdsrc : s.st.dsrc <;> simp [hdsrc, dataSource] at ho
  | mNack => cases hdsrc : s.st.dsrc <;> simp [hdsrc, dataSource] at ho
  | mStop => cases hdsrc : s.st.dsrc <;> simp [hdsrc, dataSource] at ho
  | txUnderflow => cases hdsrc : s.st.dsrc <;> simp_all [dataSource]

/-- A step of the interrupt path once the Stop is issued (R135, R143). -/
theorem continueWith_continues_of_stopPhase (d : Dir) {o : Source} {m : Byte} {s t : State} (ho : o ∈ orderStop)
    (h : continueWith o m s = .ok t) : s.st.Continues d t.st := by
  cases o with
  | mStop => cases h; exact .stopped
  | mArbLost => cases h; exact faultRecover_continues ..
  | mBusErr => cases h; exact faultRecover_continues ..
  | mAck => simp [orderStop] at ho
  | mNack => simp [orderStop] at ho
  | rxNotEmpty => simp [orderStop] at ho
  | rxFull => simp [orderStop] at ho
  | txUnderflow => simp [orderStop] at ho

theorem interruptStep_continues {d : Dir} {s t : State} (hd : s.st.ArmedFor d) (h : interruptStep s = .next t) :
    s.st.Continues d t.st := by
  obtain ⟨⟨o, m⟩, hc, h⟩ := interruptStep_next h
  obtain ⟨-, w, hw, ho, -⟩ := interruptSource_some hc
  have ho := classify_mem ho
  rw [interruptWatch] at hw
  split at hw
  · cases hw
    exact continueWith_continues_of_stopPhase d (s := scbPending s) ho h
  · next hstop =>
    have hstop : s.st.stopPending = false := by simpa using hstop
    rcases hd.phase with ⟨hstate, -, hidx⟩ | ⟨hstate, hlt⟩
    · refine continueWith_continues_of_addressPhase (s := scbPending s) hd hstate hidx hstop ?_ h
      cases d <;> rw [hstate] at hw <;> cases hw <;> exact ho
    · rw [hstate] at hw
      cases d with
      | write => cases hw; exact continueWith_continues_of_writePhase (s := scbPending s) hd hstate (hlt hstop) hstop ho h
      | read => cases hw; exact continueWith_continues_of_readPhase (s := scbPending s) hd hstate (hlt hstop) hstop ho h

end Sys2Proof.Machine

/-! PROOFS. The invariant as the engine's mode with the environment's part, and that each agent's step keeps it. -/

namespace Sys2Proof.Machine

/-! ### The invariant, by the engine's mode -/

/-- What holds of the engine's fields in every mode (R40 items 1 to 3). -/
structure Engine.Common (e : Engine) : Prop where
  idxLe : ∀ d, (e.desc d).idx ≤ (e.desc d).len
  haltCauseIff : e.haltCause ≠ .none ↔ e.state = .halted
  xferInpZero : e.status.getLsbD 2 = false

/-- The states in which a wait may stand (R40 item 7; log 22). -/
def Wait.FitsIn : Wait → ProtocolState → Prop
  | .none, _ => True
  | .addr, p => p = .addrWr ∨ p = .addrRd
  | .wr, p => p = .dataWr
  | .rd _, p => p = .dataRd
  | .stop, p => p ≠ .idle

/-- No transfer is armed (R40 items 5, 7 and 8). -/
structure Engine.Disarmed (e : Engine) : Prop where
  armed : e.armed = .none
  stopPending : e.stopPending = false
  wait : e.op.FitsIn e.state
  idleCtl : e.state = .idle → e.ctl = MasterControl.zero

/-- The engine's part of the invariant: it is disarmed, or armed for one direction. -/
structure Engine.Sound (e : Engine) : Prop extends e.Common where
  mode : e.Disarmed ∨ ∃ d, e.ArmedFor d

/-- The environment's part of the invariant (R36, log 22). -/
structure State.EnvSound (s : State) : Prop where
  rxBound : s.scb.rx.length ≤ Config.fifoDepth
  memWf : s.mem.wf = true

theorem State.Inv.sound {s : State} (h : s.Inv) : s.st.Sound where
  idxLe := fun d => match d with
    | .write => h.wrIdxLe
    | .read => h.rdIdxLe
  haltCauseIff := h.haltCauseIff
  xferInpZero := h.xferInpZero
  mode := by
    have hwait (harmed : s.st.armed ≠ .none) : s.st.op = .none := by
      by_contra hop
      exact harmed (h.waitDisarmed hop)
    cases harmed : s.st.armed with
    | none =>
      refine .inl ⟨harmed, ?_, ?_, h.idleCtl⟩
      · by_contra hstop
        exact (h.stopPendingArmed (by simpa using hstop)).1 harmed
      · cases hop : s.st.op with
        | none => trivial
        | addr => exact h.waitAddr hop
        | wr => exact h.waitWr hop
        | rd k => exact h.waitRd k hop
        | stop => exact h.waitStop hop
    | write =>
      refine .inr ⟨.write, harmed, h.armedDir .write harmed, hwait (by simp [harmed]), ?_, ?_⟩
      · simp [h.armedSource.1 harmed]
      · rcases h.armedWrite harmed with hstate | hstate
        · refine .inl ⟨hstate, ?_, h.writeFresh harmed hstate⟩
          by_contra hstop
          simpa [hstate] using (h.stopPendingArmed (by simpa using hstop)).2
        · exact .inr ⟨hstate, h.writeUnfinished harmed hstate⟩
    | read =>
      refine .inr ⟨.read, harmed, h.armedDir .read harmed, hwait (by simp [harmed]), ?_, ?_⟩
      · simp [h.armedSource.2 harmed]
      · rcases h.armedRead harmed with hstate | hstate
        · refine .inl ⟨hstate, ?_, h.readFresh harmed hstate⟩
          by_contra hstop
          simpa [hstate] using (h.stopPendingArmed (by simpa using hstop)).2
        · exact .inr ⟨hstate, h.readUnfinished harmed hstate⟩

theorem State.Inv.envSound {s : State} (h : s.Inv) : s.EnvSound := ⟨h.rxBound, h.memWf⟩

theorem State.inv_of_disarmed {s : State} (hc : s.st.Common) (hd : s.st.Disarmed) (he : s.EnvSound) : s.Inv where
  wrIdxLe := hc.idxLe .write
  rdIdxLe := hc.idxLe .read
  haltCauseIff := hc.haltCauseIff
  xferInpZero := hc.xferInpZero
  armedWrite := by simp [hd.armed]
  armedRead := by simp [hd.armed]
  stopPendingArmed := by simp [hd.stopPending]
  waitDisarmed := fun _ => hd.armed
  waitAddr := fun hop => by simpa [hop, Wait.FitsIn] using hd.wait
  waitWr := fun hop => by simpa [hop, Wait.FitsIn] using hd.wait
  waitRd := fun k hop => by simpa [hop, Wait.FitsIn] using hd.wait
  idleCtl := hd.idleCtl
  armedDir := fun d h => by cases d <;> simp [hd.armed, armedOf] at h
  armedSource := by simp [hd.armed]
  writeFresh := by simp [hd.armed]
  readFresh := by simp [hd.armed]
  writeUnfinished := by simp [hd.armed]
  readUnfinished := by simp [hd.armed]
  waitStop := fun hop => by simpa [hop, Wait.FitsIn] using hd.wait
  rxBound := he.rxBound
  memWf := he.memWf

theorem addrState_ne_dataState (d : Dir) : addrState d ≠ dataState d := by cases d <;> decide

theorem armedOf_inj {d d' : Dir} (h : armedOf d = armedOf d') : d = d' := by
  cases d <;> cases d' <;> simp_all [armedOf]

theorem Engine.ArmedFor.state {d : Dir} {e : Engine} (h : e.ArmedFor d) : e.state = addrState d ∨ e.state = dataState d :=
  h.phase.imp And.left And.left

theorem Engine.ArmedFor.fresh {d : Dir} {e : Engine} (h : e.ArmedFor d) (hstate : e.state = addrState d) :
    (e.desc d).idx = 0 := by
  rcases h.phase with ⟨-, -, hidx⟩ | ⟨hdata, -⟩
  · exact hidx
  · exact absurd (hstate.symm.trans hdata) (addrState_ne_dataState d)

theorem Engine.ArmedFor.unfinished {d : Dir} {e : Engine} (h : e.ArmedFor d) (hstate : e.state = dataState d)
    (hstop : e.stopPending = false) : (e.desc d).idx < (e.desc d).len := by
  rcases h.phase with ⟨haddr, -⟩ | ⟨-, hlt⟩
  · exact absurd (haddr.symm.trans hstate) (addrState_ne_dataState d)
  · exact hlt hstop

theorem Engine.ArmedFor.dataState_of_stopPending {d : Dir} {e : Engine} (h : e.ArmedFor d) (hstop : e.stopPending = true) :
    e.state = dataState d := by
  rcases h.phase with ⟨-, hno, -⟩ | ⟨hstate, -⟩
  · rw [hno] at hstop
    cases hstop
  · exact hstate

theorem State.inv_of_armed {s : State} {d : Dir} (hc : s.st.Common) (hd : s.st.ArmedFor d) (he : s.EnvSound) : s.Inv where
  wrIdxLe := hc.idxLe .write
  rdIdxLe := hc.idxLe .read
  haltCauseIff := hc.haltCauseIff
  xferInpZero := hc.xferInpZero
  armedWrite := fun h => by
    obtain rfl : d = .write := armedOf_inj (hd.armed.symm.trans h)
    exact hd.state
  armedRead := fun h => by
    obtain rfl : d = .read := armedOf_inj (hd.armed.symm.trans h)
    exact hd.state
  stopPendingArmed := fun hstop => by
    rw [hd.armed, hd.dataState_of_stopPending hstop]
    cases d <;> simp [armedOf, dataState]
  waitDisarmed := by simp [hd.op]
  waitAddr := by simp [hd.op]
  waitWr := by simp [hd.op]
  waitRd := by simp [hd.op]
  idleCtl := by rcases hd.state with h | h <;> rw [h] <;> cases d <;> simp [addrState, dataState]
  armedDir := fun d' h => by
    obtain rfl : d = d' := armedOf_inj (hd.armed.symm.trans h)
    exact hd.dir
  armedSource := by
    rw [hd.armed, hd.source]
    cases d <;> simp [armedOf, hd.source]
  writeFresh := fun h => by
    obtain rfl : d = .write := armedOf_inj (hd.armed.symm.trans h)
    exact hd.fresh
  readFresh := fun h => by
    obtain rfl : d = .read := armedOf_inj (hd.armed.symm.trans h)
    exact hd.fresh
  writeUnfinished := fun h => by
    obtain rfl : d = .write := armedOf_inj (hd.armed.symm.trans h)
    exact hd.unfinished
  readUnfinished := fun h => by
    obtain rfl : d = .read := armedOf_inj (hd.armed.symm.trans h)
    exact hd.unfinished
  waitStop := by simp [hd.op]
  rxBound := he.rxBound
  memWf := he.memWf

/-- The invariant is that of the engine, by its mode, with that of the environment. -/
theorem State.inv_iff {s : State} : s.Inv ↔ s.st.Sound ∧ s.EnvSound := by
  refine ⟨fun h => ⟨h.sound, h.envSound⟩, fun ⟨⟨hc, hmode⟩, he⟩ => ?_⟩
  rcases hmode with hd | ⟨d, hd⟩
  · exact State.inv_of_disarmed hc hd he
  · exact State.inv_of_armed hc hd he

/-! ### The foreground keeps the engine's part -/

theorem Engine.reset_sound : Engine.reset.Sound where
  idxLe := fun d => by cases d <;> decide
  haltCauseIff := by decide
  xferInpZero := rfl
  mode := .inl ⟨rfl, rfl, trivial, fun _ => rfl⟩

theorem Engine.Sound.disarmed {e : Engine} (h : e.Sound) (harmed : e.armed = .none) : e.Disarmed := by
  rcases h.mode with hd | ⟨d, hd⟩
  · exact hd
  · cases d <;> cases harmed.symm.trans hd.armed

theorem Engine.Sound.disarmed_of_wait {e : Engine} (h : e.Sound) (hop : e.op ≠ .none) : e.Disarmed := by
  rcases h.mode with hd | ⟨d, hd⟩
  · exact hd
  · exact absurd hd.op hop

theorem Engine.Sound.disarmed_of_idle {e : Engine} (h : e.Sound) (hidle : e.state = .idle) : e.Disarmed := by
  rcases h.mode with hd | ⟨d, hd⟩
  · exact hd
  · rcases hd.state with hs | hs <;> rw [hidle] at hs <;> cases d <;> cases hs

theorem Engine.Sound.armedFor {e : Engine} (h : e.Sound) (harmed : e.armed ≠ .none) : ∃ d, e.ArmedFor d :=
  h.mode.resolve_left fun hd => harmed hd.armed

theorem clearFlags_getLsbD_two {w : Byte} (f : Byte) (hw : w.getLsbD 2 = false) : (clearFlags f w).getLsbD 2 = false := by
  rw [clearFlags, BitVec.getLsbD_and, hw, Bool.false_and]

theorem setFlags_getLsbD_two {f w : Byte} (hf : f.getLsbD 2 = false) (hw : w.getLsbD 2 = false) :
    (setFlags f w).getLsbD 2 = false := by
  rw [setFlags, BitVec.getLsbD_or, hf, hw, Bool.or_false]

/-- A setup arms its direction in a fresh address phase (R132). -/
theorem Engine.Common.setup_sound {e : Engine} (h : e.Common) (d : Dir) (buf : Addr) (len : Len) (ctl : MasterControl) (f : Byte) :
    (e.setup d ⟨buf, len, 0⟩ ctl f).Sound where
  idxLe := by
    have hzero : (0 : Len) ≤ len := by bv_omega
    cases d with
    | write => exact fun d' => match d' with
      | .write => hzero
      | .read => h.idxLe .read
    | read => exact fun d' => match d' with
      | .write => h.idxLe .write
      | .read => hzero
  haltCauseIff := by cases d <;> simp [Engine.setup, addrState]
  xferInpZero := clearFlags_getLsbD_two f h.xferInpZero
  mode := by
    refine .inr ⟨d, rfl, rfl, rfl, ?_, .inl ⟨rfl, rfl, by cases d <;> rfl⟩⟩
    cases d with
    | write => simp [Engine.setup, setupSource]
    | read =>
      simp only [Engine.setup, setupSource, readSource]
      split <;> simp

theorem Engine.Common.haltCause_eq_none {e : Engine} (h : e.Common) (hstate : e.state ≠ .halted) : e.haltCause = .none := by
  by_contra hcause
  exact hstate (h.haltCauseIff.mp hcause)

/-- Lowering indices, with any flags but XFER_INP, keeps the mode: an unfinished transfer stays unfinished (R182, R183, R185). -/
theorem Engine.Sound.lowerIndices {e : Engine} (h : e.Sound) {wr rd : Descriptor} {status : Byte}
    (hwr : wr.idx ≤ e.wr.idx ∧ wr.len = e.wr.len) (hrd : rd.idx ≤ e.rd.idx ∧ rd.len = e.rd.len)
    (hstatus : status.getLsbD 2 = false) : { e with wr := wr, rd := rd, status := status }.Sound where
  idxLe := fun d => match d with
    | .write => hwr.2 ▸ BitVec.le_trans hwr.1 (h.idxLe .write)
    | .read => hrd.2 ▸ BitVec.le_trans hrd.1 (h.idxLe .read)
  haltCauseIff := h.haltCauseIff
  xferInpZero := hstatus
  mode := by
    refine h.mode.imp (fun hd => ⟨hd.armed, hd.stopPending, hd.wait, hd.idleCtl⟩) ?_
    rintro ⟨d, hd⟩
    have fresh {i j : Len} (hij : i ≤ j) (hj : j = 0) : i = 0 := by bv_omega
    have below {i j n : Len} (hij : i ≤ j) (hj : j < n) : i < n := by bv_omega
    refine ⟨d, hd.armed, hd.dir, hd.op, hd.source, ?_⟩
    cases d with
    | write =>
      exact hd.phase.imp (fun ⟨hs, hno, hidx⟩ => ⟨hs, hno, fresh hwr.1 hidx⟩)
        (fun ⟨hs, hlt⟩ => ⟨hs, fun hno => hwr.2 ▸ below hwr.1 (hlt hno)⟩)
    | read =>
      exact hd.phase.imp (fun ⟨hs, hno, hidx⟩ => ⟨hs, hno, fresh hrd.1 hidx⟩)
        (fun ⟨hs, hlt⟩ => ⟨hs, fun hno => hrd.2 ▸ below hrd.1 (hlt hno)⟩)

theorem armed_of_restartAllowed {e : Engine} (h : restartAllowed e = true) : e.armed = .none := by
  simp only [restartAllowed, Bool.and_eq_true, decide_eq_true_eq] at h
  exact h.1

theorem armed_of_writeByteAllowed {e : Engine} (h : writeByteAllowed e = true) : e.armed = .none := by
  simp only [writeByteAllowed, Bool.and_eq_true, decide_eq_true_eq] at h
  exact h.1

theorem Engine.Issues.sound {i : Instr} {e e' : Engine} (hi : Issues i e e') (h : e.Sound) (hop : e.op = .none) :
    e'.Sound := by
  have clear (f : Byte) := clearFlags_getLsbD_two f h.xferInpZero
  have zero (x : Len) : (0 : Len) ≤ x := by bv_omega
  cases hi with
  | answered => rw [← hop]; exact h
  | start a r _ hidle =>
    have hd := h.disarmed_of_idle hidle
    have hcause := h.haltCause_eq_none (by simp [hidle])
    exact ⟨⟨h.idxLe, by cases r <;> simp [hcause, addrState], h.xferInpZero⟩,
      .inl ⟨hd.armed, hd.stopPending, by cases r <;> simp [Wait.FitsIn, addrState], by cases r <;> simp [addrState]⟩⟩
  | restart a r _ hok =>
    have hd := h.disarmed (armed_of_restartAllowed hok)
    exact ⟨⟨h.idxLe, by cases r <;> simp [addrState], h.xferInpZero⟩,
      .inl ⟨hd.armed, hd.stopPending, by cases r <;> simp [Wait.FitsIn, addrState], by cases r <;> simp [addrState]⟩⟩
  | stop _ hidle => exact ⟨⟨h.idxLe, h.haltCauseIff, h.xferInpZero⟩, .inl ⟨rfl, rfl, hidle, fun hs => absurd hs hidle⟩⟩
  | wrbyte d _ hok =>
    have hd := h.disarmed (armed_of_writeByteAllowed hok)
    exact ⟨⟨h.idxLe, by simp, h.xferInpZero⟩, .inl ⟨hd.armed, hd.stopPending, rfl, nofun⟩⟩
  | rdbyte k _ hok =>
    obtain ⟨harmed, hstate⟩ : e.armed = .none ∧ e.state = .dataRd := by simpa [readByteAllowed] using hok
    have hd := h.disarmed harmed
    exact ⟨⟨h.idxLe, h.haltCauseIff, h.xferInpZero⟩, .inl ⟨hd.armed, hd.stopPending, hstate, hd.idleCtl⟩⟩
  | qwrite => exact h.toCommon.setup_sound ..
  | qread => exact h.toCommon.setup_sound ..
  | clrwbuf =>
    rw [← hop]
    exact h.lowerIndices ⟨zero _, rfl⟩ ⟨BitVec.le_refl _, rfl⟩ (clear _)
  | clrrbuf =>
    rw [← hop]
    exact h.lowerIndices ⟨BitVec.le_refl _, rfl⟩ ⟨zero _, rfl⟩ (clear _)
  | clrstat =>
    rw [← hop]
    exact h.lowerIndices ⟨BitVec.le_refl _, rfl⟩ ⟨BitVec.le_refl _, rfl⟩ rfl

theorem Engine.Common.forcedIdle_sound {e : Engine} (h : e.Common) {status : Byte} (hstatus : status.getLsbD 2 = false) :
    { e.forcedIdle with status := status }.Sound :=
  ⟨⟨h.idxLe, by simp [Engine.forcedIdle], hstatus⟩, .inl ⟨rfl, rfl, trivial, fun _ => rfl⟩⟩

theorem Engine.Resolves.sound {e e' : Engine} (hr : e.Resolves e') (h : e.Sound) : e'.Sound := by
  cases hr with
  | acked hop =>
    have hd := h.disarmed_of_wait (by simp [hop])
    have hphase : e.state = .addrWr ∨ e.state = .addrRd := by simpa [hop, Wait.FitsIn] using hd.wait
    have hcause := h.haltCause_eq_none (by rcases hphase with hs | hs <;> simp [hs])
    exact ⟨⟨h.idxLe, by cases e.dir <;> simp [hcause, dataState], h.xferInpZero⟩,
      .inl ⟨hd.armed, hd.stopPending, trivial, by cases e.dir <;> simp [dataState]⟩⟩
  | halted hop c hc =>
    have hd := h.disarmed_of_wait hop
    exact ⟨⟨h.idxLe, by simp [hc], h.xferInpZero⟩, .inl ⟨hd.armed, hd.stopPending, trivial, nofun⟩⟩
  | readOn hop =>
    have hd := h.disarmed_of_wait hop
    exact ⟨⟨h.idxLe, h.haltCauseIff, h.xferInpZero⟩, .inl ⟨hd.armed, hd.stopPending, trivial, hd.idleCtl⟩⟩
  | stopped hop =>
    have hd := h.disarmed_of_wait (by simp [hop])
    exact ⟨⟨h.idxLe, by simp, h.xferInpZero⟩, .inl ⟨hd.armed, hd.stopPending, trivial, fun _ => rfl⟩⟩
  | faulted => exact h.toCommon.forcedIdle_sound h.xferInpZero

/-! ### The interrupt path keeps the engine's part -/

section
variable (d : Dir) (i : Len) (src : DataSource) (e : Engine)

@[simp] theorem Engine.counted_state : (e.counted d i src).state = dataState d := rfl
@[simp] theorem Engine.counted_dsrc : (e.counted d i src).dsrc = src := rfl
@[simp] theorem Engine.counted_dir : (e.counted d i src).dir = e.dir := by cases d <;> rfl
@[simp] theorem Engine.counted_haltCause : (e.counted d i src).haltCause = e.haltCause := by cases d <;> rfl
@[simp] theorem Engine.counted_status : (e.counted d i src).status = e.status := by cases d <;> rfl
@[simp] theorem Engine.counted_armed : (e.counted d i src).armed = e.armed := by cases d <;> rfl
@[simp] theorem Engine.counted_stopPending : (e.counted d i src).stopPending = e.stopPending := by cases d <;> rfl
@[simp] theorem Engine.counted_op : (e.counted d i src).op = e.op := by cases d <;> rfl
@[simp] theorem Engine.counted_desc : (e.counted d i src).desc d = { e.desc d with idx := i } := by cases d <;> rfl

end

theorem dataState_ne_halted (d : Dir) : dataState d ≠ .halted := by cases d <;> decide

/-- Counting keeps every index within its length. -/
theorem Engine.Common.counted_idxLe {e : Engine} (h : e.Common) {d : Dir} {i : Len} (hi : i ≤ (e.desc d).len)
    (src : DataSource) (d' : Dir) : ((e.counted d i src).desc d').idx ≤ ((e.counted d i src).desc d').len := by
  cases d <;> cases d'
  · exact hi
  · exact h.idxLe .read
  · exact h.idxLe .write
  · exact hi

theorem Engine.Continues.sound {d : Dir} {e e' : Engine} (hc : e.Continues d e') (h : e.Sound) (hd : e.ArmedFor d) :
    e'.Sound := by
  have hcause : e.haltCause = .none := h.haltCause_eq_none <| by
    rcases hd.state with hs | hs <;> rw [hs] <;> cases d <;> decide
  cases hc with
  | counted i src hlo hlt hsrc hstop =>
    exact ⟨⟨h.counted_idxLe (BitVec.le_of_lt hlt) src, by simp [hcause, dataState_ne_halted], by simpa using h.xferInpZero⟩,
      .inr ⟨d, by simpa using hd.armed, by simpa using hd.dir, by simpa using hd.op, hsrc,
        .inr ⟨rfl, fun _ => by simpa using hlt⟩⟩⟩
  | stopIssued hle =>
    exact ⟨⟨h.counted_idxLe (BitVec.le_refl _) e.dsrc, by simp [hcause, dataState_ne_halted], by simpa using h.xferInpZero⟩,
      .inr ⟨d, by simpa using hd.armed, by simpa using hd.dir, by simpa using hd.op, hd.source, .inr ⟨rfl, nofun⟩⟩⟩
  | halted i c f hlo hle hc hf hstop =>
    exact ⟨⟨h.counted_idxLe hle e.dsrc, by simp [hc], setFlags_getLsbD_two hf h.xferInpZero⟩,
      .inl ⟨rfl, by simpa using hstop, by simp [hd.op, Wait.FitsIn], nofun⟩⟩
  | stopped =>
    exact ⟨⟨h.idxLe, by simp, setFlags_getLsbD_two (completionFlag_getLsbD_two _) h.xferInpZero⟩,
      .inl ⟨rfl, rfl, by simp [hd.op, Wait.FitsIn], fun _ => rfl⟩⟩
  | faulted f hf => exact h.toCommon.forcedIdle_sound (setFlags_getLsbD_two hf h.xferInpZero)

/-! ### Every agent keeps the environment's part -/

theorem State.EnvSound.of_eq {s t : State} (h : s.EnvSound) (hrx : t.scb.rx = s.scb.rx) (hmem : t.mem = s.mem) :
    t.EnvSound :=
  ⟨hrx ▸ h.rxBound, hmem ▸ h.memWf⟩

theorem State.EnvSound.of_softReset {s t : State} (h : s.EnvSound) {n : Nat} (hscb : t.scb = softResetScb n)
    (hmem : t.mem = s.mem) : t.EnvSound :=
  ⟨hscb ▸ softResetScb_rx_length n, hmem ▸ h.memWf⟩

theorem State.EnvSound.faultRecover {s : State} (h : s.EnvSound) (kind : FaultKind) (m : Byte) (who : FaultEntry) :
    (faultRecover kind m who s).EnvSound := by
  obtain ⟨-, -, hscb, -, -, -, hmem, -⟩ := faultRecover_fields kind m who s
  exact h.of_softReset hscb hmem

theorem scbRx_scb_rx (s : State) : (scbRx s).2.scb.rx = s.scb.rx.tail := by
  cases hrx : s.scb.rx <;> simp [scbRx, hrx]

theorem queueTransfer_environment (a : SlaveAddr) (d : Dir) (p : StartPolicy) (c : ComplPolicy) (s : State) :
    (queueTransfer a d p c s).scb.rx = s.scb.rx ∧ (queueTransfer a d p c s).mem = s.mem := by
  unfold queueTransfer
  cases qCheck s <;> simp [qSetup]

theorem exec_keeps_envSound {i : Instr} {s t : State} (h : exec i s = .next t) (he : s.EnvSound) : t.EnvSound := by
  cases i with
  | start a r =>
    cases h
    split
    · exact he.of_eq rfl rfl
    · split
      · exact he.of_eq rfl rfl
      · exact he.of_eq (by simp) (by simp)
  | restart a r =>
    cases h
    split
    · exact he.of_eq (by simp) (by simp)
    · exact he.of_eq rfl rfl
  | stop => cases h; split <;> exact he.of_eq rfl rfl
  | wrbyte d => cases h; split <;> exact he.of_eq rfl rfl
  | rdbyte k => cases h; split <;> exact he.of_eq rfl rfl
  | qwrite a p c =>
    cases h
    obtain ⟨hrx, hmem⟩ := queueTransfer_environment a .write p c s
    exact he.of_eq hrx hmem
  | qread a p c =>
    cases h
    obtain ⟨hrx, hmem⟩ := queueTransfer_environment a .read p c s
    exact he.of_eq hrx hmem
  | getwcnt => cases h; exact he.of_eq rfl rfl
  | getrcnt => cases h; exact he.of_eq rfl rfl
  | clrwbuf => cases h; exact he.of_eq rfl rfl
  | clrrbuf => cases h; exact he.of_eq rfl rfl
  | getstat => cases h; exact he.of_eq rfl rfl
  | clrstat => cases h; exact he.of_eq rfl rfl
  | rstwa =>
    cases h
    split
    · exact he.of_eq rfl rfl
    · split
      · exact he.of_eq (by simp [rstwaRead]) (by simp [rstwaRead])
      · exact he.of_softReset (n := s.freeCount) (by simp [rstwaWrite]) (by simp [rstwaWrite])

theorem resolveStep_keeps_envSound {s t : State} (h : resolveStep s = .next t) (he : s.EnvSound) : t.EnvSound := by
  obtain ⟨o, ho, hby⟩ := resolveStep_next h
  have he' : (endWait (scbPending s)).EnvSound := he.of_eq rfl rfl
  generalize endWait (scbPending s) = u at hby he'
  cases hop : s.st.op with
  | none => rw [hop] at hby; cases hby
  | addr =>
    rw [hop] at hby
    cases o <;> cases hby
    · exact he'.of_eq rfl rfl
    · exact he'.of_eq rfl rfl
    · exact he'.faultRecover ..
    · exact he'.faultRecover ..
  | wr =>
    rw [hop] at hby
    cases o <;> cases hby
    · exact he'.of_eq rfl rfl
    · exact he'.of_eq rfl rfl
    · exact he'.faultRecover ..
    · exact he'.faultRecover ..
  | rd k =>
    rw [hop] at hby
    cases o <;> cases hby
    · exact he'.faultRecover ..
    · exact he'.faultRecover ..
    · have hrx : (scbRx u).2.EnvSound :=
        ⟨by rw [scbRx_scb_rx, List.length_tail]; exact Nat.le_trans (Nat.sub_le ..) he'.rxBound, by simpa using he'.memWf⟩
      cases k <;> exact hrx.of_eq rfl rfl
  | stop =>
    rw [hop] at hby
    cases o <;> cases hby
    · exact he'.faultRecover ..
    · exact he'.faultRecover ..
    · exact he'.of_eq rfl rfl

theorem queueByte_keeps_envSound {i : Len} {s t : State} (h : queueByte i s = .ok t) (he : s.EnvSound) : t.EnvSound := by
  obtain ⟨v, -, rfl⟩ := queueByte_ok h
  exact he.of_eq rfl rfl

theorem State.EnvSound.complete {s : State} (he : s.EnvSound) : (complete s).EnvSound := he.of_eq (by simp) (by simp)

theorem bufferedAddrAck_keeps_envSound {s t : State} (h : bufferedAddrAck s = .ok t) (he : s.EnvSound) : t.EnvSound := by
  simp only [bufferedAddrAck] at h
  split at h
  · split at h
    · cases h
      exact (he.of_eq (t := { scbClear maskAddr s with st := _ }) rfl rfl).complete
    · split at h
      · cases h
      · next u hu =>
        cases h
        exact (queueByte_keeps_envSound hu (he.of_eq rfl rfl)).of_eq rfl rfl
  · split at h
    · cases h
      exact (he.of_eq (t := { scbClear maskAddr s with st := _ }) rfl rfl).complete
    · cases h
      exact he.of_eq rfl rfl

theorem bufferedByteAck_keeps_envSound {s t : State} (h : bufferedByteAck s = .ok t) (he : s.EnvSound) : t.EnvSound := by
  simp only [bufferedByteAck] at h
  split at h
  · cases h
    exact State.EnvSound.complete (he.of_eq rfl rfl)
  · exact queueByte_keeps_envSound h (he.of_eq rfl rfl)

theorem afterDrain_keeps_envSound (m : Byte) (n : Nat) {s : State} (he : s.EnvSound) : (afterDrain m n s).EnvSound := by
  simp only [afterDrain]
  split
  · exact he.of_eq rfl rfl
  · split
    · exact State.EnvSound.complete (he.of_eq rfl rfl)
    · split <;> exact he.of_eq rfl rfl

theorem bufferedReadData_keeps_envSound {m : Byte} {s t : State} (h : bufferedReadData m s = .ok t) (he : s.EnvSound) :
    t.EnvSound := by
  simp only [bufferedReadData] at h
  split at h
  · cases h
  · next u hu =>
    cases h
    obtain ⟨-, -, -, -, -, -, -, -, hrx, hmem, -⟩ := drain_ok hu
    refine afterDrain_keeps_envSound _ _ ⟨?_, hmem he.memWf⟩
    rw [hrx, List.length_drop]
    exact Nat.le_trans (Nat.sub_le ..) he.rxBound

theorem continueWith_keeps_envSound {o : Source} {m : Byte} {s t : State} (h : continueWith o m s = .ok t)
    (he : s.EnvSound) : t.EnvSound := by
  cases o with
  | mAck =>
    simp only [continueWith] at h
    split at h
    · exact bufferedAddrAck_keeps_envSound h he
    · exact bufferedByteAck_keeps_envSound h he
  | mNack =>
    simp only [continueWith] at h
    split at h <;> cases h <;> exact he.of_eq rfl rfl
  | mArbLost => cases h; exact he.faultRecover ..
  | mBusErr => cases h; exact he.faultRecover ..
  | mStop => cases h; exact he.of_eq rfl rfl
  | rxNotEmpty => exact bufferedReadData_keeps_envSound h he
  | rxFull => exact bufferedReadData_keeps_envSound h he
  | txUnderflow => cases h; exact he.of_eq rfl rfl

/-- A step of any agent keeps the environment's part. -/
theorem runMove_keeps_envSound {m : Move} {s t : State} (h : runMove m s = .next t) (he : s.EnvSound) : t.EnvSound := by
  cases m with
  | hostWrite offset width v =>
    rcases hostWriteStep_next h with ⟨-, -, hcmd⟩ | rfl | rfl | rfl
    · obtain ⟨-, i, -, hexec⟩ := commandWrite_next hcmd
      exact exec_keeps_envSound hexec he
    · exact he.of_eq rfl rfl
    · exact he.of_eq rfl rfl
    · exact he
  | hostRead offset width =>
    simp only [runMove, hostReadStep] at h
    split at h <;> cases h
    exact he.of_eq rfl rfl
  | callerStore a v =>
    simp only [runMove, callerStoreStep] at h
    split at h <;> cases h
    next hm => exact ⟨he.rxBound, Memory.wf_write he.memWf hm⟩
  | resolve => exact resolveStep_keeps_envSound h he
  | interrupt =>
    obtain ⟨c, -, hc⟩ := interruptStep_next h
    exact continueWith_keeps_envSound hc (he.of_eq rfl rfl)
  | env e =>
    obtain ⟨scb, rfl, hrx⟩ := envStep_next h
    exact ⟨hrx he.rxBound, he.memWf⟩
  | driverInit => cases h; exact he.of_eq rfl rfl

/-! ### What a step of any agent makes of the engine -/

/-- What the step of a scheduled move can make of the engine's fields. -/
inductive Engine.Steps (m : Move) (e : Engine) : Engine → Prop
  | same : Steps m e e
  | issue {e' : Engine} (w : Word) (i : Instr) (hm : m = .hostWrite 0x0 4 w) (hi : decode w = .ok i) (hop : e.op = .none)
      (h : Issues i e e') : Steps m e e'
  | resolve {e' : Engine} (h : e.Resolves e') : Steps m e e'
  | interrupt {e' : Engine} (d : Dir) (hm : m = .interrupt) (hd : e.ArmedFor d) (h : e.Continues d e') : Steps m e e'
  | init (hm : m = .driverInit) : Steps m e Engine.reset

theorem runMove_steps {m : Move} {s t : State} (hs : s.st.Sound) (h : runMove m s = .next t) : s.st.Steps m t.st := by
  cases m with
  | hostWrite offset width v =>
    rcases hostWriteStep_next h with ⟨rfl, rfl, hcmd⟩ | rfl | rfl | rfl
    · obtain ⟨hop, i, hi, hexec⟩ := commandWrite_next hcmd
      exact .issue v i rfl hi hop (exec_issues hexec)
    · exact .same
    · exact .same
    · exact .same
  | hostRead offset width =>
    simp only [runMove, hostReadStep] at h
    split at h <;> cases h
    exact .same
  | callerStore a v =>
    simp only [runMove, callerStoreStep] at h
    split at h <;> cases h
    exact .same
  | resolve => exact .resolve (resolveStep_resolves h)
  | interrupt =>
    obtain ⟨c, hc, -⟩ := interruptStep_next h
    obtain ⟨harmed, -⟩ := interruptSource_some hc
    obtain ⟨d, hd⟩ := hs.armedFor harmed
    exact .interrupt d rfl hd (interruptStep_continues hd h)
  | env e =>
    obtain ⟨scb, rfl, -⟩ := envStep_next h
    exact .same
  | driverInit => cases h; exact .init rfl

theorem Engine.Steps.sound {m : Move} {e e' : Engine} (h : e.Steps m e') (hs : e.Sound) : e'.Sound := by
  cases h with
  | same => exact hs
  | issue w i hm hi hop h => exact h.sound hs hop
  | resolve h => exact h.sound hs
  | interrupt d hm hd h => exact h.sound hs hd
  | init => exact Engine.reset_sound

theorem runMove_keeps_inv {m : Move} {s t : State} (hs : s.Inv) (h : runMove m s = .next t) : t.Inv := by
  obtain ⟨hsound, henv⟩ := State.inv_iff.mp hs
  exact State.inv_iff.mpr ⟨(runMove_steps hsound h).sound hsound, runMove_keeps_envSound h henv⟩

/-- Settles O48: each agent's step keeps the engine's part by its mode, and the environment's part. -/
theorem stepKeepsInv : Obligations.StepKeepsInv := by
  intro s t hs h
  rcases step_next h with ⟨-, rfl⟩ | ⟨m, rest, -, hrun⟩
  · exact hs
  · exact runMove_keeps_inv (hs.withMoves rest) hrun

/-- Settles O47: a reset engine is disarmed in IDLE. -/
theorem invAtReset : Obligations.InvAtReset :=
  State.inv_iff.mpr ⟨Engine.reset_sound, Nat.zero_le _, rfl⟩

end Sys2Proof.Machine

/-! PROOFS. What a step can do to the flags (10_state.md R26, R27) and to the indices (R29, R212). -/

namespace Sys2Proof.Machine


theorem Engine.Issues.status_of_manual {i : Instr} {e e' : Engine} (h : Issues i e e')
    (hi : (∃ a r, i = .start a r) ∨ (∃ a r, i = .restart a r) ∨ i = .stop ∨ (∃ d, i = .wrbyte d) ∨ (∃ k, i = .rdbyte k)) :
    e'.status = e.status := by
  cases h with
  | answered => rfl
  | start => rfl
  | restart => rfl
  | stop => rfl
  | wrbyte => rfl
  | rdbyte => rfl
  | qwrite => simp at hi
  | qread => simp at hi
  | clrwbuf => simp at hi
  | clrrbuf => simp at hi
  | clrstat => simp at hi

theorem Engine.Resolves.status_eq {e e' : Engine} (h : e.Resolves e') : e'.status = e.status := by
  cases h <;> rfl

/-- Settles O24: by what an issue step and a resolve step can make of the engine. -/
theorem manualApiWritesNoFlag : Obligations.ManualApiWritesNoFlag := by
  refine ⟨fun i s t h hi => (exec_issues h).status_of_manual hi, fun s t rest hm h => ?_⟩
  rw [step_of_moves hm] at h
  exact (resolveStep_resolves h).status_eq

theorem Engine.Resolves.desc_eq {e e' : Engine} (h : e.Resolves e') (d : Dir) : e'.desc d = e.desc d := by
  cases h <;> cases d <;> rfl

/-- The commands that write a direction's index, to 0 (R132, R182, R183). -/
def ClearsIndex (d : Dir) (i : Instr) : Prop :=
  match d with
  | .write => i = .clrwbuf ∨ ∃ a p h, i = .qwrite a p h
  | .read => i = .clrrbuf ∨ ∃ a p h, i = .qread a p h

theorem Engine.Issues.desc_cases {i : Instr} {e e' : Engine} (h : Issues i e e') (d : Dir) :
    e'.desc d = e.desc d ∨ (e'.desc d).idx = 0 ∧ ClearsIndex d i := by
  cases h with
  | answered => left; cases d <;> rfl
  | start => left; cases d <;> rfl
  | restart => left; cases d <;> rfl
  | stop => left; cases d <;> rfl
  | wrbyte => left; cases d <;> rfl
  | rdbyte => left; cases d <;> rfl
  | qwrite a p c =>
    cases d
    · exact .inr ⟨rfl, .inr ⟨a, p, c, rfl⟩⟩
    · exact .inl rfl
  | qread a p c =>
    cases d
    · exact .inl rfl
    · exact .inr ⟨rfl, .inr ⟨a, p, c, rfl⟩⟩
  | clrwbuf =>
    cases d
    · exact .inr ⟨rfl, .inl rfl⟩
    · exact .inl rfl
  | clrrbuf =>
    cases d
    · exact .inl rfl
    · exact .inr ⟨rfl, .inl rfl⟩
  | clrstat => left; cases d <;> rfl

/-- The descriptor that is not counted stays. -/
theorem Engine.counted_desc_of_ne {d d' : Dir} (hne : d' ≠ d) (i : Len) (src : DataSource) (e : Engine) :
    (e.counted d i src).desc d' = e.desc d' := by
  cases d <;> cases d'
  · exact absurd rfl hne
  · rfl
  · rfl
  · exact absurd rfl hne

/-- A step of the interrupt path moves the armed index forward, or not at all, and leaves the other descriptor. -/
theorem Engine.Continues.desc_cases {d : Dir} {e e' : Engine} (h : e.Continues d e') (d' : Dir) :
    e'.desc d' = e.desc d' ∨ (e.desc d').idx ≤ (e'.desc d').idx ∧ d' = d := by
  by_cases hne : d' = d
  · subst hne
    cases h with
    | counted i src hlo => exact .inr ⟨by rw [Engine.counted_desc]; exact hlo, rfl⟩
    | stopIssued hle =>
      right
      refine ⟨?_, rfl⟩
      cases d' <;> exact hle
    | halted i c f hlo =>
      right
      refine ⟨?_, rfl⟩
      cases d' <;> exact hlo
    | stopped => left; cases d' <;> rfl
    | faulted => left; cases d' <;> rfl
  · left
    cases h with
    | counted i src => exact Engine.counted_desc_of_ne hne i src e
    | stopIssued => exact Engine.counted_desc_of_ne hne _ e.dsrc e
    | halted i => exact Engine.counted_desc_of_ne hne i e.dsrc e
    | stopped => cases d' <;> rfl
    | faulted => cases d' <;> rfl

/-- How a step can change a direction's index (R29, R212). -/
theorem Engine.Steps.idx_cases {m : Move} {e e' : Engine} (h : e.Steps m e') (d : Dir) :
    (e'.desc d).idx = (e.desc d).idx ∨
    ((e'.desc d).idx = 0 ∧
      (m = .driverInit ∨ ∃ w i, m = .hostWrite 0x0 4 w ∧ decode w = .ok i ∧ ClearsIndex d i)) ∨
    ((e.desc d).idx ≤ (e'.desc d).idx ∧ m = .interrupt ∧ e.armed = armedOf d) := by
  cases h with
  | same => exact .inl rfl
  | issue w i hm hi hop h =>
    rcases h.desc_cases d with hd | ⟨hzero, hclears⟩
    · exact .inl (congrArg Descriptor.idx hd)
    · exact .inr (.inl ⟨hzero, .inr ⟨w, i, hm, hi, hclears⟩⟩)
  | resolve h => exact .inl (congrArg Descriptor.idx (h.desc_eq d))
  | interrupt d' hm hd h =>
    rcases h.desc_cases d with hdesc | ⟨hle, rfl⟩
    · exact .inl (congrArg Descriptor.idx hdesc)
    · exact .inr (.inr ⟨hle, hm, hd.armed⟩)
  | init hm => exact .inr (.inl ⟨by cases d <;> rfl, .inl hm⟩)

theorem Engine.Steps.of_idx_falls {m : Move} {e e' : Engine} (h : e.Steps m e') {d : Dir}
    (hlt : (e'.desc d).idx < (e.desc d).idx) :
    m = .driverInit ∨ ∃ w i, m = .hostWrite 0x0 4 w ∧ decode w = .ok i ∧ ClearsIndex d i := by
  rcases h.idx_cases d with heq | ⟨-, hclears⟩ | ⟨hle, -⟩
  · rw [heq] at hlt
    exact absurd hlt (BitVec.lt_irrefl _)
  · exact hclears
  · exact absurd hlt (BitVec.not_lt.mpr hle)

theorem Engine.Steps.of_idx_rises {m : Move} {e e' : Engine} (h : e.Steps m e') {d : Dir}
    (hlt : (e.desc d).idx < (e'.desc d).idx) : m = .interrupt ∧ e.armed = armedOf d := by
  rcases h.idx_cases d with heq | ⟨hzero, -⟩ | ⟨-, hcounts⟩
  · rw [heq] at hlt
    exact absurd hlt (BitVec.lt_irrefl _)
  · rw [hzero] at hlt
    exact absurd hlt BitVec.not_lt_zero
  · exact hcounts

/-- Settles O53: by how a step can change an index, for each direction. -/
theorem indexFallsOnlyByClearOrSetup : Obligations.IndexFallsOnlyByClearOrSetup := by
  intro s t m rest hs hm h
  rw [step_of_moves hm] at h
  have hsteps := runMove_steps (hs.withMoves rest).sound h
  exact ⟨hsteps.of_idx_falls (d := .write), hsteps.of_idx_falls (d := .read),
    hsteps.of_idx_rises (d := .write), hsteps.of_idx_rises (d := .read)⟩

/-- Settles O57: bit 2 is not stored (R40 item 3), so the word has the computed one. -/
theorem xferInpIsComputed : Obligations.XferInpIsComputed := by
  intro s t hs h
  cases h
  have hstored : s.st.status.getLsbD 2 = false := hs.xferInpZero
  show ((liveStatus s.st).setWidth 16).getLsbD 2 = true ↔ _
  rw [BitVec.getLsbD_setWidth, liveStatus, BitVec.getLsbD_or, hstored]
  by_cases hidle : s.st.state = .idle
  · simp [hidle]
  · simp [hidle, flagXferInp]

end Sys2Proof.Machine

/-! PROOFS. Host accesses outside the register space (20_memory.md R54), and the steps of the interrupt path that meet an address
without memory (R58). -/

namespace Sys2Proof.Machine

/-! ### Accesses that name no register -/

theorem hostReg_eq_none {offset width : Nat} (h : width ≠ 4 ∨ offset % 4 ≠ 0 ∨ 0x10 ≤ offset) :
    hostReg offset width = none := by
  unfold hostReg
  split
  · next hwidth => split <;> simp [hwidth] at h ⊢
  · rfl

/-- Settles O10: such an access names no register. -/
theorem badHostAccessRefused : Obligations.BadHostAccessRefused := by
  intro s offset width v rest hbad
  have hnone := hostReg_eq_none hbad
  constructor <;> intro hm <;> rw [step_of_moves hm]
  · simp [runMove, hostWriteStep, hnone]
  · simp [runMove, hostReadStep, hnone]

/-! ### The continuation that a scheduled interrupt step runs -/

/-- An interrupt step is the continuation of the source that its row of R135 classifies. -/
theorem step_of_interrupt {s : State} {rest : List Move} {w : Watch} {o : Source} (hm : s.moves = .interrupt :: rest)
    (harmed : s.st.armed ≠ .none) (hw : interruptWatch s.st = some w) (ho : classify s.scb.pend w.order = some o) :
    step s = outcomeOf (continueWith o w.mask (scbPending { s with moves := rest })) := by
  rw [step_of_moves hm]
  simp [runMove, interruptStep, interruptSource, harmed, hw, ho]

/-- A pending source that heads the list is the one classified (R14). -/
theorem classify_cons_of_pending {p : Byte} {o : Source} (order : List Source) (h : p.getLsbD (sourceBit o) = true) :
    classify p (o :: order) = some o :=
  if_pos h

theorem interruptWatch_of_addressPhase {e : Engine} (hstate : e.state = .addrWr ∨ e.state = .addrRd)
    (hstop : e.stopPending = false) : interruptWatch e = some ⟨orderAddr, maskAddr⟩ := by
  rcases hstate with hstate | hstate <;> simp [interruptWatch, hstate, hstop]

theorem interruptWatch_of_dataWr {e : Engine} (hstate : e.state = .dataWr) (hstop : e.stopPending = false) :
    interruptWatch e = some ⟨orderAddr ++ [.txUnderflow], maskAddr ||| sourceMask .txUnderflow⟩ := by
  simp [interruptWatch, hstate, hstop]

/-! ### A step that meets an address without memory (R58) -/

theorem queueByte_of_read_none {i : Len} {s : State} (h : s.mem.read (bufferAddr s.st.wr.buf i) = none) :
    queueByte i s = .error (.memoryRefused (bufferAddr s.st.wr.buf i)) := by
  simp [queueByte, memRead, h]

/-- At the address ACK of a write the byte queued is byte 0 (R136). -/
theorem bufferedAddrAck_of_read_none {s : State} (harmed : s.st.armed = .write) (hlen : s.st.wr.len ≠ 0)
    (h : s.mem.read s.st.wr.buf = none) : bufferedAddrAck s = .error (.memoryRefused s.st.wr.buf) := by
  have hzero : bufferAddr s.st.wr.buf 0 = s.st.wr.buf := by simp [bufferAddr]
  rw [← hzero] at h ⊢
  refine (if_pos harmed).trans ((if_neg hlen).trans ?_)
  split
  · next hstuck => exact hstuck.symm.trans (queueByte_of_read_none h)
  · next hgoesOn => cases hgoesOn.symm.trans (queueByte_of_read_none h)

/-- At a data ACK the byte queued is the one after the byte counted (R138). -/
theorem bufferedByteAck_of_read_none {s : State} (hmore : s.st.wr.idx + 1 ≠ s.st.wr.len)
    (h : s.mem.read (bufferAddr s.st.wr.buf (s.st.wr.idx + 1)) = none) :
    bufferedByteAck s = .error (.memoryRefused (bufferAddr s.st.wr.buf (s.st.wr.idx + 1))) :=
  (if_neg hmore).trans (queueByte_of_read_none h)

/-- Settles O58: M_ACK heads the list of both rows. -/
theorem writeFromHoleStuck : Obligations.WriteFromHoleStuck := by
  intro s rest hm hstop hack
  refine ⟨fun harmed hstate hlen hnone => ?_, fun harmed hstate hmore hnone => ?_⟩
  · rw [step_of_interrupt hm (by simp [harmed]) (interruptWatch_of_addressPhase hstate hstop)
      (classify_cons_of_pending _ hack)]
    have hphase : inAddressPhase s.st = true := by simpa [inAddressPhase] using hstate
    have hstuck := bufferedAddrAck_of_read_none (s := scbPending { s with moves := rest }) harmed hlen hnone
    simp [continueWith, hphase, hstuck, outcomeOf]
  · rw [step_of_interrupt hm harmed (interruptWatch_of_dataWr hstate hstop) (classify_cons_of_pending _ hack)]
    have hphase : inAddressPhase s.st = false := by simp [inAddressPhase, hstate]
    have hstuck := bufferedByteAck_of_read_none (s := scbPending { s with moves := rest }) hmore hnone
    simp only [continueWith, scbPending_st, hphase, hstuck, outcomeOf]
    rfl

theorem continueWith_of_readSource {src : DataSource} (hsrc : src ≠ .txUnderflow) (m : Byte) (s : State) :
    continueWith (dataSource src) m s = bufferedReadData m s := by
  cases src with
  | txUnderflow => exact absurd rfl hsrc
  | rxNotEmpty => rfl
  | rxFull => rfl

/-- Settles O34: the drain is stuck at byte `k`, and the step with it. -/
theorem readIntoHoleStuck : Obligations.ReadIntoHoleStuck := by
  intro s rest k hm harmed hstop hstate hsource hpend hk hbefore hnone
  rw [step_of_interrupt hm harmed (interruptWatch_of_dataRd hstate hstop) (classify_cons_of_pending _ hpend),
    continueWith_of_readSource hsource]
  have hstuck := drain_refused (s := scbRxLevel (scbPending { s with moves := rest })) hk (Nat.min_le_left _ _)
    hbefore hnone
  simp only [bufferedReadData, scbPending_scb, scbPending_st, remaining, hstuck, outcomeOf]
  rfl

end Sys2Proof.Machine

/-! PROOFS. The frame of the commands: what the issue step of each leaves as it was (20_memory.md R51, 10_state.md R27 to R32). -/

namespace Sys2Proof.Machine

/-! ### The environment and the host registers -/

/-- The commands that queue a byte in the TX FIFO and leave the rest of the SCB (R95, R96, R99). -/
def QueuesByte (i : Instr) : Prop :=
  (∃ a r, i = .start a r) ∨ (∃ a r, i = .restart a r) ∨ ∃ d, i = .wrbyte d

/-- The buffered commands (R133, R134). -/
def Buffered (i : Instr) : Prop :=
  (∃ a p h, i = .qwrite a p h) ∨ ∃ a p h, i = .qread a p h

/-- Caller memory, the argument registers, the last word read and the schedule are the same. -/
def State.SameHostSide (s t : State) : Prop :=
  t.mem = s.mem ∧ t.argBuf = s.argBuf ∧ t.argLen = s.argLen ∧ t.readData = s.readData ∧ t.moves = s.moves

/-- What the issue step of a command can change outside the engine's fields: RSP and the trace in any of them, and of the SCB, the line
and the model's counters what its kind of command may touch. -/
inductive State.Issues (i : Instr) (s : State) : State → Prop
  /-- a refusal, or a command that leaves the SCB alone -/
  | answered (st : Engine) (rsp : Response) (trace : List Action) :
      Issues i s { s with st := st, rsp := rsp, trace := trace }
  | queued (st : Engine) (rsp : Response) (trace : List Action) (tx : List Byte) (hi : QueuesByte i) :
      Issues i s { s with st := st, rsp := rsp, trace := trace, scb := { s.scb with tx := tx } }
  | setup (st : Engine) (rsp : Response) (trace : List Action) (tx : List Byte) (pend : Byte) (hi : Buffered i) :
      Issues i s { s with st := st, rsp := rsp, trace := trace, scb := { s.scb with tx := tx, pend := pend } }
  | rstwa (t : State) (hi : i = .rstwa) (hsame : s.SameHostSide t)
      (hrx : t.scb.rx.length ≤ max s.scb.rx.length Config.fifoDepth) : Issues i s t

theorem rstwaRead_kept (s : State) : s.SameHostSide (rstwaRead s) ∧ (rstwaRead s).scb.rx = s.scb.rx := by
  simp [State.SameHostSide, rstwaRead]

theorem rstwaWrite_kept (s : State) :
    s.SameHostSide (rstwaWrite s) ∧ (rstwaWrite s).scb = softResetScb s.freeCount := by
  simp [State.SameHostSide, rstwaWrite]

theorem queueTransfer_state_issues {i : Instr} (hi : Buffered i) (a : SlaveAddr) (d : Dir) (p : StartPolicy) (c : ComplPolicy)
    (s : State) : State.Issues i s (queueTransfer a d p c s) := by
  unfold queueTransfer
  cases qCheck s with
  | nullBuffer => exact .answered ..
  | illegalState => exact .answered ..
  | busy => exact .answered ..
  | fresh => cases p <;> exact .setup (hi := hi) ..
  | resume => cases p <;> exact .setup (hi := hi) ..

theorem exec_state_issues {i : Instr} {s t : State} (h : exec i s = .next t) : State.Issues i s t := by
  cases i with
  | start a r =>
    cases h
    split
    · exact .answered ..
    · split
      · exact .answered ..
      · exact .queued (hi := .inl ⟨a, r, rfl⟩) ..
  | restart a r =>
    cases h
    split
    · exact .queued (hi := .inr (.inl ⟨a, r, rfl⟩)) ..
    · exact .answered ..
  | stop => cases h; split <;> exact .answered ..
  | wrbyte d =>
    cases h
    split
    · exact .queued (hi := .inr (.inr ⟨d, rfl⟩)) ..
    · exact .answered ..
  | rdbyte k => cases h; split <;> exact .answered ..
  | qwrite a p c => cases h; exact queueTransfer_state_issues (.inl ⟨a, p, c, rfl⟩) ..
  | qread a p c => cases h; exact queueTransfer_state_issues (.inr ⟨a, p, c, rfl⟩) ..
  | getwcnt => cases h; exact .answered ..
  | getrcnt => cases h; exact .answered ..
  | clrwbuf => cases h; exact .answered ..
  | clrrbuf => cases h; exact .answered ..
  | getstat => cases h; exact .answered ..
  | clrstat => cases h; exact .answered ..
  | rstwa =>
    cases h
    split
    · exact .answered ..
    · split
      · obtain ⟨hsame, hrx⟩ := rstwaRead_kept (csAcquire s)
        refine .rstwa _ rfl hsame ?_
        rw [respond_scb, csRelease_scb, hrx]
        exact Nat.le_max_left _ _
      · obtain ⟨hsame, hscb⟩ := rstwaWrite_kept (csAcquire s)
        refine .rstwa _ rfl hsame ?_
        rw [respond_scb, csRelease_scb, hscb]
        exact Nat.le_trans (softResetScb_rx_length _) (Nat.le_max_right _ _)

namespace State.Issues
variable {i : Instr} {s t : State}

theorem sameHostSide (h : State.Issues i s t) : s.SameHostSide t := by
  cases h with
  | answered => exact ⟨rfl, rfl, rfl, rfl, rfl⟩
  | queued => exact ⟨rfl, rfl, rfl, rfl, rfl⟩
  | setup => exact ⟨rfl, rfl, rfl, rfl, rfl⟩
  | rstwa t hi hsame => exact hsame

theorem rx_length_le (h : State.Issues i s t) : t.scb.rx.length ≤ max s.scb.rx.length Config.fifoDepth := by
  cases h with
  | answered => exact Nat.le_max_left _ _
  | queued => exact Nat.le_max_left _ _
  | setup => exact Nat.le_max_left _ _
  | rstwa t hi hsame hrx => exact hrx

theorem eq_of_ne_rstwa (h : State.Issues i s t) (hne : i ≠ .rstwa) :
    t.line = s.line ∧ t.softResets = s.softResets ∧ t.freeCount = s.freeCount ∧ t.scb.rx = s.scb.rx ∧
      t.scb.busy = s.scb.busy ∧ t.scb.en = s.scb.en := by
  cases h with
  | answered => exact ⟨rfl, rfl, rfl, rfl, rfl, rfl⟩
  | queued => exact ⟨rfl, rfl, rfl, rfl, rfl, rfl⟩
  | setup => exact ⟨rfl, rfl, rfl, rfl, rfl, rfl⟩
  | rstwa t hi => exact absurd hi hne

theorem pend_tx_eq (h : State.Issues i s t) (hne : i ≠ .rstwa) (hunbuffered : ¬Buffered i) :
    t.scb.pend = s.scb.pend ∧ (¬QueuesByte i → t.scb.tx = s.scb.tx) := by
  cases h with
  | answered => exact ⟨rfl, fun _ => rfl⟩
  | queued st rsp trace tx hi => exact ⟨rfl, fun hqueues => absurd hi hqueues⟩
  | setup st rsp trace tx pend hi => exact absurd hi hunbuffered
  | rstwa t hi => exact absurd hi hne

end State.Issues

/-! ### The engine's fields -/

namespace Engine.Issues
variable {i : Instr} {e e' : Engine}

/-- Only a setup of the direction writes a descriptor's buffer and length (R29, R132). -/
theorem buffer_kept (h : Engine.Issues i e e') :
    ((∀ a p c, i ≠ .qwrite a p c) → e'.wr.buf = e.wr.buf ∧ e'.wr.len = e.wr.len) ∧
    ((∀ a p c, i ≠ .qread a p c) → e'.rd.buf = e.rd.buf ∧ e'.rd.len = e.rd.len) := by
  cases h with
  | qwrite a p c => exact ⟨fun hne => absurd rfl (hne a p c), fun _ => ⟨rfl, rfl⟩⟩
  | qread a p c => exact ⟨fun _ => ⟨rfl, rfl⟩, fun hne => absurd rfl (hne a p c)⟩
  | _ => exact ⟨fun _ => ⟨rfl, rfl⟩, fun _ => ⟨rfl, rfl⟩⟩

theorem idx_kept (h : Engine.Issues i e e') {d : Dir} (hd : ¬ClearsIndex d i) : (e'.desc d).idx = (e.desc d).idx := by
  rcases h.desc_cases d with hdesc | ⟨-, hclears⟩
  · rw [hdesc]
  · exact absurd hclears hd

/-- Outside the buffered commands the transfer's control fields stay, the arming but for STOP, the flags but for the clears (R27, R28). -/
theorem transfer_kept (h : Engine.Issues i e e') (hunbuffered : ¬Buffered i) :
    e'.ctl = e.ctl ∧ e'.dsrc = e.dsrc ∧ (i ≠ .stop → e'.armed = e.armed ∧ e'.stopPending = e.stopPending) ∧
      (i ≠ .clrwbuf → i ≠ .clrrbuf → i ≠ .clrstat → e'.status = e.status) := by
  cases h with
  | stop => exact ⟨rfl, rfl, fun hne => absurd rfl hne, fun _ _ _ => rfl⟩
  | qwrite a p c => exact absurd (.inl ⟨a, p, c, rfl⟩) hunbuffered
  | qread a p c => exact absurd (.inr ⟨a, p, c, rfl⟩) hunbuffered
  | clrwbuf => exact ⟨rfl, rfl, fun _ => ⟨rfl, rfl⟩, fun hne => absurd rfl hne⟩
  | clrrbuf => exact ⟨rfl, rfl, fun _ => ⟨rfl, rfl⟩, fun _ hne => absurd rfl hne⟩
  | clrstat => exact ⟨rfl, rfl, fun _ => ⟨rfl, rfl⟩, fun _ _ hne => absurd rfl hne⟩
  | _ => exact ⟨rfl, rfl, fun _ => ⟨rfl, rfl⟩, fun _ _ _ => rfl⟩

/-- Only a command that starts an address phase writes the direction, and only such a command or WRBYTE the state (R95, R96, R99, R132). -/
theorem phase_kept (h : Engine.Issues i e e') (hstart : ∀ a r, i ≠ .start a r) (hrestart : ∀ a r, i ≠ .restart a r)
    (hunbuffered : ¬Buffered i) :
    e'.dir = e.dir ∧ ((∀ d, i ≠ .wrbyte d) → e'.state = e.state ∧ e'.haltCause = e.haltCause) := by
  cases h with
  | start a r => exact absurd rfl (hstart a r)
  | restart a r => exact absurd rfl (hrestart a r)
  | wrbyte d => exact ⟨rfl, fun hne => absurd rfl (hne d)⟩
  | qwrite a p c => exact absurd (.inl ⟨a, p, c, rfl⟩) hunbuffered
  | qread a p c => exact absurd (.inr ⟨a, p, c, rfl⟩) hunbuffered
  | _ => exact ⟨rfl, fun _ => ⟨rfl, rfl⟩⟩

end Engine.Issues

theorem not_buffered_iff {i : Instr} :
    ¬Buffered i ↔ (∀ a p c, i ≠ .qwrite a p c) ∧ ∀ a p c, i ≠ .qread a p c := by
  simp [Buffered]

theorem not_queuesByte_iff {i : Instr} :
    ¬QueuesByte i ↔ (∀ a r, i ≠ .start a r) ∧ (∀ a r, i ≠ .restart a r) ∧ ∀ d, i ≠ .wrbyte d := by
  simp [QueuesByte]

/-- Settles O51: by what the issue step of a command can make of the engine's fields, and of the rest of the state. -/
theorem commandFrames : Obligations.CommandFrames := by
  intro i s t h
  have hengine := exec_issues h
  have hstate := exec_state_issues h
  obtain ⟨hmem, hargBuf, hargLen, hreadData, hmoves⟩ := hstate.sameHostSide
  obtain ⟨hwrite, hread⟩ := hengine.buffer_kept
  refine ⟨fun b => by rw [hmem], hargBuf, hargLen, hreadData, hmoves, hstate.rx_length_le, fun hqw => ?_, fun hqr => ?_,
    fun hqw hqr => ?_, hstate.eq_of_ne_rstwa, fun hrstwa hqw hqr => ?_, fun hstart hrestart hqw hqr => ?_⟩
  · obtain ⟨hbuf, hlen⟩ := hwrite hqw
    exact ⟨hbuf, hlen, fun hclr => hengine.idx_kept (d := .write) (by simp [ClearsIndex, hclr, hqw])⟩
  · obtain ⟨hbuf, hlen⟩ := hread hqr
    exact ⟨hbuf, hlen, fun hclr => hengine.idx_kept (d := .read) (by simp [ClearsIndex, hclr, hqr])⟩
  · exact hengine.transfer_kept (not_buffered_iff.mpr ⟨hqw, hqr⟩)
  · obtain ⟨hpend, htx⟩ := hstate.pend_tx_eq hrstwa (not_buffered_iff.mpr ⟨hqw, hqr⟩)
    exact ⟨hpend, fun hstart hrestart hwrbyte => htx (not_queuesByte_iff.mpr ⟨hstart, hrestart, hwrbyte⟩)⟩
  · exact hengine.phase_kept hstart hrestart (not_buffered_iff.mpr ⟨hqw, hqr⟩)

end Sys2Proof.Machine

/-! PROOFS. Which steps write caller memory, and at which bytes (20_memory.md R51, R60). -/

namespace Sys2Proof.Machine

/-! ### Steps that leave memory as it is -/

theorem faultRecover_mem (kind : FaultKind) (m : Byte) (who : FaultEntry) (s : State) :
    (faultRecover kind m who s).mem = s.mem := by
  cases who <;> rfl

theorem resolveBy_mem {w : Wait} {o : Source} {s t : State} (h : resolveBy w o s = .next t) : t.mem = s.mem := by
  cases w with
  | none => cases h
  | addr => cases o <;> cases h <;> rfl
  | wr => cases o <;> cases h <;> rfl
  | stop => cases o <;> cases h <;> rfl
  | rd k =>
    cases o <;> cases h
    · exact faultRecover_mem ..
    · exact faultRecover_mem ..
    · cases k <;> exact scbRx_mem s

theorem resolveStep_mem {s t : State} (h : resolveStep s = .next t) : t.mem = s.mem := by
  obtain ⟨o, -, hby⟩ := resolveStep_next h
  exact (resolveBy_mem hby :)

/-- Outside the caller's store and the interrupt path no agent's step writes memory. -/
theorem runMove_mem {m : Move} {s t : State} (hstore : ∀ a v, m ≠ .callerStore a v) (hinterrupt : m ≠ .interrupt)
    (h : runMove m s = .next t) : t.mem = s.mem := by
  cases m with
  | hostWrite offset width v =>
    rcases hostWriteStep_next h with ⟨-, -, hcmd⟩ | rfl | rfl | rfl
    · obtain ⟨-, i, -, hexec⟩ := commandWrite_next hcmd
      exact (exec_state_issues hexec).sameHostSide.1
    · rfl
    · rfl
    · rfl
  | hostRead offset width =>
    simp only [runMove, hostReadStep] at h
    split at h <;> cases h
    rfl
  | callerStore a v => exact absurd rfl (hstore a v)
  | resolve => exact resolveStep_mem h
  | interrupt => exact absurd rfl hinterrupt
  | env e =>
    obtain ⟨scb, rfl, -⟩ := envStep_next h
    rfl
  | driverInit => cases h; rfl

theorem queueByte_mem {i : Len} {s t : State} (h : queueByte i s = .ok t) : t.mem = s.mem := by
  obtain ⟨v, -, rfl⟩ := queueByte_ok h
  rfl

theorem bufferedAddrAck_mem {s t : State} (h : bufferedAddrAck s = .ok t) : t.mem = s.mem := by
  simp only [bufferedAddrAck] at h
  split at h
  · split at h
    · cases h
      exact complete_mem _
    · split at h
      · cases h
      · next hqueued =>
        cases h
        exact (queueByte_mem hqueued :)
  · split at h <;> cases h
    · exact complete_mem _
    · rfl

theorem bufferedByteAck_mem {s t : State} (h : bufferedByteAck s = .ok t) : t.mem = s.mem := by
  simp only [bufferedByteAck] at h
  split at h
  · cases h
    exact complete_mem _
  · exact (queueByte_mem h :)

/-- The sources of a buffered read's data (R141). -/
def Source.IsReadData (o : Source) : Prop := o = .rxNotEmpty ∨ o = .rxFull

/-- Every continuation but the read step leaves memory as it is. -/
theorem continueWith_mem {o : Source} {m : Byte} {s t : State} (ho : ¬o.IsReadData) (h : continueWith o m s = .ok t) :
    t.mem = s.mem := by
  cases o with
  | mAck =>
    simp only [continueWith] at h
    split at h
    · exact bufferedAddrAck_mem h
    · exact bufferedByteAck_mem h
  | mNack =>
    simp only [continueWith] at h
    split at h <;> cases h <;> rfl
  | mArbLost => cases h; exact faultRecover_mem ..
  | mBusErr => cases h; exact faultRecover_mem ..
  | mStop => cases h; rfl
  | rxNotEmpty => exact absurd (.inl rfl) ho
  | rxFull => exact absurd (.inr rfl) ho
  | txUnderflow => cases h; rfl

theorem Source.IsReadData.not_mem {o : Source} (h : o.IsReadData) : o ∉ orderStop ∧ o ∉ orderAddr ++ [.txUnderflow] := by
  rcases h with rfl | rfl <;> decide

/-- Read data is classified only in the data phase of a read (R135). -/
theorem dataRd_of_interruptSource {s : State} {c : Source × Byte} (h : interruptSource s = some c) (hc : c.1.IsReadData) :
    s.st.state = .dataRd := by
  obtain ⟨-, w, hw, ho, -⟩ := interruptSource_some h
  have hmem := classify_mem ho
  obtain ⟨hstop, haddr⟩ := hc.not_mem
  rw [interruptWatch] at hw
  split at hw
  · cases hw
    exact absurd hmem hstop
  · cases hstate : s.st.state <;> rw [hstate] at hw <;> cases hw
    · exact absurd (List.mem_append_left _ hmem) haddr
    · exact absurd (List.mem_append_left _ hmem) haddr
    · exact absurd hmem haddr

/-- Under the invariant read data is classified only with a read armed (R40 item 4). -/
theorem armed_read_of_interruptSource {s : State} {c : Source × Byte} (hs : s.Inv) (h : interruptSource s = some c)
    (hc : c.1.IsReadData) : s.st.armed = .read := by
  have hstate := dataRd_of_interruptSource h hc
  obtain ⟨hnone, -⟩ := interruptSource_some h
  cases harmed : s.st.armed with
  | none => exact absurd harmed hnone
  | write => simpa [hstate] using hs.armedWrite harmed
  | read => rfl

theorem interruptStep_mem {s t : State} (hs : s.Inv) (harmed : s.st.armed ≠ .read) (h : interruptStep s = .next t) :
    t.mem = s.mem := by
  obtain ⟨c, hc, hcont⟩ := interruptStep_next h
  exact (continueWith_mem (fun hdata => harmed (armed_read_of_interruptSource hs hc hdata)) hcont :)

/-! ### The bytes a read step writes -/

/-- One round of the drain: a byte is written at the index, and the rest is drained from the next one (R141). -/
theorem drain_succ_ok {n : Nat} {s t : State} (h : drain (n + 1) s = .ok t) :
    ∃ (v : Byte) (u : State), s.mem.write (bufferAddr s.st.rd.buf s.st.rd.idx) v = some u.mem ∧
      u.st.rd = { s.st.rd with idx := s.st.rd.idx + 1 } ∧ drain n u = .ok t := by
  simp only [drain] at h
  split at h
  · cases h
  · next hwritten =>
    obtain ⟨m, hm, rfl⟩ := memWrite_ok hwritten
    exact ⟨_, _, by simpa using hm, by simp, h⟩

/-- A drain of `n` bytes leaves every byte outside the `n` it counts (R51). -/
theorem drain_mem_read {n : Nat} {s t : State} {b : Addr} (hwf : s.mem.wf = true) (h : drain n s = .ok t)
    (hb : ∀ k < n, b ≠ bufferAddr s.st.rd.buf (s.st.rd.idx + BitVec.ofNat 16 k)) : t.mem.read b = s.mem.read b := by
  induction n generalizing s with
  | zero => cases h; rfl
  | succ n ih =>
    obtain ⟨v, u, hm, hrd, hrest⟩ := drain_succ_ok h
    have hfirst : b ≠ bufferAddr s.st.rd.buf s.st.rd.idx := by simpa using hb 0 (Nat.succ_pos n)
    have hlater (k : Nat) (hk : k < n) : b ≠ bufferAddr u.st.rd.buf (u.st.rd.idx + BitVec.ofNat 16 k) := by
      have hnext := hb (k + 1) (Nat.succ_lt_succ hk)
      rw [Nat.add_comm k, BitVec.ofNat_add, ← BitVec.add_assoc] at hnext
      rw [hrd]
      exact hnext
    calc t.mem.read b
      _ = u.mem.read b := ih (Memory.wf_write hwf hm) hrest hlater
      _ = s.mem.read b := by rw [Memory.read_write hwf hm, if_neg hfirst]

/-- A read step drains no more bytes than the transfer wants (R141). -/
theorem bufferedReadData_ok {m : Byte} {s t : State} (h : bufferedReadData m s = .ok t) :
    ∃ n u, n ≤ remaining s.st.rd ∧ drain n (scbRxLevel s) = .ok u ∧ t = afterDrain m n u := by
  simp only [bufferedReadData] at h
  split at h
  · cases h
  · next u hu =>
    cases h
    exact ⟨_, u, Nat.min_le_right _ _, hu, rfl⟩

theorem complete_rd (s : State) : (complete s).st.rd = s.st.rd := by
  rcases complete_st s with h | h <;> rw [h]

theorem afterDrain_rd (m : Byte) (n : Nat) (s : State) : (afterDrain m n s).st.rd = s.st.rd := by
  rcases afterDrain_st m n s with ⟨-, u, hu, hdone⟩ | ⟨-, hst | hst⟩
  · rw [hdone, complete_rd, hu]
  · rw [hst]
  · rw [hst]

theorem afterDrain_mem (m : Byte) (n : Nat) (s : State) : (afterDrain m n s).mem = s.mem := by
  simp only [afterDrain]
  split
  · rfl
  · split
    · exact complete_mem _
    · split <;> rfl

/-- Byte `i + k` of a buffer, where the index does not wrap around (R51). -/
theorem bufferAddr_add (buf : Addr) {i : Len} {k : Nat} (h : i.toNat + k < 2 ^ 16) :
    bufferAddr buf (i + BitVec.ofNat 16 k) = buf + BitVec.ofNat 32 (i.toNat + k) := by
  rw [bufferAddr]
  congr 1
  bv_omega

/-- A read step leaves every byte outside the indices it counts (R51, R60). -/
theorem bufferedReadData_mem_read {m : Byte} {s t : State} {b : Addr} (hwf : s.mem.wf = true)
    (h : bufferedReadData m s = .ok t)
    (hb : ∀ k, s.st.rd.idx.toNat ≤ k → k < t.st.rd.idx.toNat → b ≠ s.st.rd.buf + BitVec.ofNat 32 k) :
    t.mem.read b = s.mem.read b := by
  obtain ⟨n, u, hn, hdrain, rfl⟩ := bufferedReadData_ok h
  obtain ⟨hust, -⟩ := drain_ok hdrain
  have hfits : s.st.rd.idx.toNat + n < 2 ^ 16 := by
    simp only [remaining] at hn
    omega
  have hcounted : (afterDrain m n u).st.rd.idx.toNat = s.st.rd.idx.toNat + n := by
    rw [afterDrain_rd, hust, scbRxLevel_st]
    bv_omega
  rw [afterDrain_mem]
  refine drain_mem_read (s := scbRxLevel s) hwf hdrain fun k hk => ?_
  rw [scbRxLevel_st, bufferAddr_add _ (by omega)]
  exact hb _ (Nat.le_add_right _ _) (by omega)

theorem interruptStep_mem_read {s t : State} {b : Addr} (hwf : s.mem.wf = true) (h : interruptStep s = .next t)
    (hb : ∀ k, s.st.rd.idx.toNat ≤ k → k < t.st.rd.idx.toNat → b ≠ s.st.rd.buf + BitVec.ofNat 32 k) :
    t.mem.read b = s.mem.read b := by
  obtain ⟨⟨o, m⟩, -, hcont⟩ := interruptStep_next h
  by_cases hdata : o.IsReadData
  · rcases hdata with rfl | rfl <;> exact bufferedReadData_mem_read (s := scbPending s) hwf hcont hb
  · have hmem : t.mem = s.mem := (continueWith_mem hdata hcont :)
    rw [hmem]

/-- Settles O52: a step of the interrupt path writes only in the drain of a read step. -/
theorem callerMemoryTouchedOnlyByReads : Obligations.CallerMemoryTouchedOnlyByReads := by
  intro s t m rest hs hm h
  rw [step_of_moves hm] at h
  refine ⟨fun hstore hinterrupt => (runMove_mem hstore hinterrupt h :), ?_, ?_⟩
  · rintro rfl harmed
    exact (interruptStep_mem (hs.withMoves rest) harmed h :)
  · rintro rfl b hb
    exact interruptStep_mem_read (s := { s with moves := rest }) hs.memWf h hb

end Sys2Proof.Machine

/-! PROOFS. The command words (30_encoding.md R71 to R75): their fields, and the words that spell a command. -/

namespace Sys2Proof

/-! ### The fields of a word -/

/-- `bitsOf` is the number of the slice that the decoder's fields take. -/
theorem toNat_extractLsb' (w : Word) (hi lo : Nat) : (w.extractLsb' lo (hi - lo + 1)).toNat = bitsOf w hi lo :=
  BitVec.extractLsb'_toNat ..

theorem testBit_bitsOf (w : Word) (hi lo i : Nat) :
    (bitsOf w hi lo).testBit i = (decide (i < hi - lo + 1) && w.getLsbD (lo + i)) := by
  rw [bitsOf, Nat.testBit_mod_two_pow, Nat.testBit_shiftRight, BitVec.testBit_toNat]

theorem bitsOf_and (v w : Word) (hi lo : Nat) : bitsOf (v &&& w) hi lo = bitsOf v hi lo &&& bitsOf w hi lo := by
  simp [bitsOf, Nat.shiftRight_and_distrib, Nat.and_mod_two_pow]

theorem bitsOf_or (v w : Word) (hi lo : Nat) : bitsOf (v ||| w) hi lo = bitsOf v hi lo ||| bitsOf w hi lo := by
  simp [bitsOf, Nat.shiftRight_or_distrib, Nat.or_mod_two_pow]

/-- A mask of ones over a field keeps the field. -/
theorem bitsOf_and_ones (w : Word) (hi lo : Nat) : bitsOf w hi lo &&& (2 ^ (hi - lo + 1) - 1) = bitsOf w hi lo := by
  rw [Nat.and_two_pow_sub_one_eq_mod, bitsOf, Nat.mod_mod]

/-- A field of one bit. -/
theorem bitsOf_self (w : Word) (i : Nat) : bitsOf w i i = (w.getLsbD i).toNat := by
  rw [bitsOf, BitVec.getLsbD, Nat.toNat_testBit, Nat.shiftRight_eq_div_pow, Nat.sub_self, Nat.zero_add, Nat.pow_one]

theorem getLsbD_eq_of_bitsOf_eq {v w : Word} {hi lo : Nat} (h : bitsOf v hi lo = bitsOf w hi lo) {i : Nat} (hlo : lo ≤ i)
    (hhi : i ≤ hi) : v.getLsbD i = w.getLsbD i := by
  have hbit := congrArg (Nat.testBit · (i - lo)) h
  have hlt : i - lo < hi - lo + 1 := by omega
  simpa [testBit_bitsOf, hlt, Nat.add_sub_cancel' hlo] using hbit

/-- A word is its opcode, its reserved bits and its six fields: they cover all 32 bits (R71). -/
theorem word_eq_iff {v w : Word} :
    v = w ↔ bitsOf v 3 0 = bitsOf w 3 0 ∧ bitsOf v 31 24 = bitsOf w 31 24 ∧ bitsOf v 15 15 = bitsOf w 15 15 ∧
      ∀ f : CmdField, bitsOf v f.bits.1 f.bits.2 = bitsOf w f.bits.1 f.bits.2 := by
  refine ⟨by rintro rfl; simp, ?_⟩
  rintro ⟨hop, hhigh, h15, hfields⟩
  refine BitVec.eq_of_getLsbD_eq fun i hi => ?_
  have hcover : i ≤ 3 ∨ 24 ≤ i ∨ i = 15 ∨ ∃ f : CmdField, f.bits.2 ≤ i ∧ i ≤ f.bits.1 := by
    by_contra! hout
    obtain ⟨h3, h24, h15, hfield⟩ := hout
    have hD := hfield .D
    have hH := hfield .H
    have hS := hfield .S
    have hK := hfield .K
    have hR := hfield .R
    have hA := hfield .A
    simp only [CmdField.bits] at hD hH hS hK hR hA
    omega
  rcases hcover with h3 | h24 | rfl | ⟨f, hlo, hhi⟩
  · exact getLsbD_eq_of_bitsOf_eq hop (Nat.zero_le i) h3
  · exact getLsbD_eq_of_bitsOf_eq hhigh h24 (by omega)
  · exact getLsbD_eq_of_bitsOf_eq h15 (Nat.le_refl _) (Nat.le_refl _)
  · exact getLsbD_eq_of_bitsOf_eq (hfields f) hlo hhi

/-- The value of a field, from the values of all six. -/
def CmdField.pick (d h s k r a : Nat) : CmdField → Nat
  | .D => d
  | .H => h
  | .S => s
  | .K => k
  | .R => r
  | .A => a

theorem dirOfBit_bit (b : Bool) : (dirOfBit b).bit.toNat = b.toNat := by cases b <;> rfl
theorem ackOfBit_bit (b : Bool) : (ackOfBit b).bit.toNat = b.toNat := by cases b <;> rfl
theorem startOfBit_bit (b : Bool) : (startOfBit b).bit.toNat = b.toNat := by cases b <;> rfl
theorem complOfBit_bit (b : Bool) : (complOfBit b).bit.toNat = b.toNat := by cases b <;> rfl

theorem bitsOf_field (w : Word) (f : CmdField) :
    bitsOf w f.bits.1 f.bits.2 = f.pick (fieldD w).toNat (fieldH w).bit.toNat (fieldS w).bit.toNat (fieldK w).bit.toNat
      (fieldR w).bit.toNat (fieldA w).toNat := by
  cases f with
  | D => exact (toNat_extractLsb' w 23 16).symm
  | H => exact (bitsOf_self w 14).trans (complOfBit_bit _).symm
  | S => exact (bitsOf_self w 13).trans (startOfBit_bit _).symm
  | K => exact (bitsOf_self w 12).trans (ackOfBit_bit _).symm
  | R => exact (bitsOf_self w 11).trans (dirOfBit_bit _).symm
  | A => exact (toNat_extractLsb' w 10 4).symm

theorem bitsOf_op (w : Word) : bitsOf w 3 0 = (fieldOP w).toNat :=
  (toNat_extractLsb' w 3 0).symm

/-! ### A word put together from its fields -/

theorem getLsbD_place {n lo i : Nat} (v : BitVec n) (hi : i < 32) :
    (place lo v).getLsbD i = (!decide (i < lo) && v.getLsbD (i - lo)) := by
  simp [place, hi]

theorem bitsOf_place_self {n lo hi : Nat} (v : BitVec n) (hn : hi + 1 = lo + n) (hlo : lo ≤ hi) (hhi : hi < 32) :
    bitsOf (place lo v) hi lo = v.toNat := by
  refine Nat.eq_of_testBit_eq fun i => ?_
  have hw : hi - lo + 1 = n := by omega
  rw [testBit_bitsOf, hw, BitVec.testBit_toNat]
  by_cases hlt : i < n
  · simp [hlt, getLsbD_place v (show lo + i < 32 by omega)]
  · simp [hlt, BitVec.getLsbD_of_ge v i (Nat.le_of_not_lt hlt)]

theorem bitsOf_place_of_disjoint {n lo hi lo' : Nat} (v : BitVec n) (h : lo' + n ≤ lo ∨ hi < lo') (hlo : lo ≤ hi)
    (hhi : hi < 32) : bitsOf (place lo' v) hi lo = 0 := by
  refine Nat.eq_of_testBit_eq fun i => ?_
  rw [testBit_bitsOf, Nat.zero_testBit]
  by_cases hlt : i < hi - lo + 1
  · rw [getLsbD_place v (by omega)]
    rcases h with habove | hbelow
    · rw [BitVec.getLsbD_of_ge v (lo + i - lo') (by omega), Bool.and_false, Bool.and_false]
    · rw [decide_eq_true (p := lo + i < lo') (by omega), Bool.not_true, Bool.false_and, Bool.and_false]
  · rw [decide_eq_false hlt, Bool.false_and]

theorem Dir.bit_injective : Function.Injective fun r : Dir => r.bit.toNat :=
  Function.LeftInverse.injective (g := fun n => dirOfBit (n == 1)) fun r => by cases r <;> rfl
theorem AckPolicy.bit_injective : Function.Injective fun k : AckPolicy => k.bit.toNat :=
  Function.LeftInverse.injective (g := fun n => ackOfBit (n == 1)) fun k => by cases k <;> rfl
theorem StartPolicy.bit_injective : Function.Injective fun p : StartPolicy => p.bit.toNat :=
  Function.LeftInverse.injective (g := fun n => startOfBit (n == 1)) fun p => by cases p <;> rfl
theorem ComplPolicy.bit_injective : Function.Injective fun c : ComplPolicy => c.bit.toNat :=
  Function.LeftInverse.injective (g := fun n => complOfBit (n == 1)) fun c => by cases c <;> rfl

section
variable (d : Byte) (h s k r : BitVec 1) (a : SlaveAddr) (op : BitVec 4)

theorem bitsOf_cmd32 (f : CmdField) :
    bitsOf (cmd32 d h s k r a op) f.bits.1 f.bits.2 = f.pick d.toNat h.toNat s.toNat k.toNat r.toNat a.toNat := by
  cases f <;> simp (disch := omega) [cmd32, CmdField.bits, CmdField.pick, bitsOf_or, bitsOf_place_self,
    bitsOf_place_of_disjoint]

theorem bitsOf_high_cmd32 : bitsOf (cmd32 d h s k r a op) 31 24 = 0 := by
  obtain ⟨-, hhigh, -⟩ := Laws.EncodedFields.cmd32_fields d h s k r a op
  exact (toNat_extractLsb' _ 31 24).symm.trans (congrArg BitVec.toNat hhigh)

theorem bitsOf_15_cmd32 : bitsOf (cmd32 d h s k r a op) 15 15 = 0 := by
  obtain ⟨-, -, h15⟩ := Laws.EncodedFields.cmd32_fields d h s k r a op
  exact (bitsOf_self _ 15).trans (congrArg Bool.toNat h15)

theorem fieldOP_cmd32 : fieldOP (cmd32 d h s k r a op) = op := by
  obtain ⟨hop, -⟩ := Laws.EncodedFields.cmd32_fields d h s k r a op
  exact BitVec.eq_of_toNat_eq hop

@[simp] theorem fieldD_cmd32 : fieldD (cmd32 d h s k r a op) = d :=
  BitVec.eq_of_toNat_eq ((bitsOf_field _ .D).symm.trans (bitsOf_cmd32 d h s k r a op .D))
@[simp] theorem fieldH_cmd32 (c : ComplPolicy) : fieldH (cmd32 d c.bit s k r a op) = c :=
  ComplPolicy.bit_injective ((bitsOf_field _ .H).symm.trans (bitsOf_cmd32 d c.bit s k r a op .H))
@[simp] theorem fieldS_cmd32 (p : StartPolicy) : fieldS (cmd32 d h p.bit k r a op) = p :=
  StartPolicy.bit_injective ((bitsOf_field _ .S).symm.trans (bitsOf_cmd32 d h p.bit k r a op .S))
@[simp] theorem fieldK_cmd32 (k : AckPolicy) : fieldK (cmd32 d h s k.bit r a op) = k :=
  AckPolicy.bit_injective ((bitsOf_field _ .K).symm.trans (bitsOf_cmd32 d h s k.bit r a op .K))
@[simp] theorem fieldR_cmd32 (r : Dir) : fieldR (cmd32 d h s k r.bit a op) = r :=
  Dir.bit_injective ((bitsOf_field _ .R).symm.trans (bitsOf_cmd32 d h s k r.bit a op .R))
@[simp] theorem fieldA_cmd32 : fieldA (cmd32 d h s k r a op) = a :=
  BitVec.eq_of_toNat_eq ((bitsOf_field _ .A).symm.trans (bitsOf_cmd32 d h s k r a op .A))

end

/-- A word whose reserved bits are 0 is put together from its fields. -/
theorem eq_cmd32_of_reserved {w : Word} (hhigh : bitsOf w 31 24 = 0) (h15 : bitsOf w 15 15 = 0) :
    w = cmd32 (fieldD w) (fieldH w).bit (fieldS w).bit (fieldK w).bit (fieldR w).bit (fieldA w) (fieldOP w) := by
  refine word_eq_iff.mpr ⟨?_, ?_, ?_, fun f => ?_⟩
  · rw [bitsOf_op, bitsOf_op, fieldOP_cmd32]
  · rw [hhigh, bitsOf_high_cmd32]
  · rw [h15, bitsOf_15_cmd32]
  · rw [bitsOf_cmd32, bitsOf_field]

/-! ### The words of an opcode -/

/-- The fields an opcode uses (R73's table). -/
def Opcode.fields (op : Opcode) : List CmdField := (fieldsUsed (opcodeNumber op).toNat).getD []

/-- The word has the opcode, and its reserved bits and the fields the opcode does not use are 0 (R74). -/
structure Opcode.Fits (op : Opcode) (w : Word) : Prop where
  number : fieldOP w = opcodeNumber op
  high : bitsOf w 31 24 = 0
  bit15 : bitsOf w 15 15 = 0
  unused : ∀ f ∉ op.fields, bitsOf w f.bits.1 f.bits.2 = 0

theorem opcodeOf_opcodeNumber (op : Opcode) : opcodeOf (opcodeNumber op) = some op := by cases op <;> rfl

theorem opcodeNumber_of_opcodeOf {n : BitVec 4} {op : Opcode} (h : opcodeOf n = some op) : n = opcodeNumber op := by
  have hall : ∀ n : BitVec 4, ∀ op ∈ opcodeOf n, n = opcodeNumber op := by decide
  exact hall n op h

theorem fieldsUsed_eq_map (n : BitVec 4) : fieldsUsed n.toNat = (opcodeOf n).map Opcode.fields := by
  revert n
  decide

/-- A mask of the table is 0 on the fields its opcode uses and 1 on every other bit. -/
theorem bitsOf_opcodeMask (op : Opcode) :
    bitsOf (opcodeMask op) 3 0 = 2 ^ (3 - 0 + 1) - 1 ∧ bitsOf (opcodeMask op) 31 24 = 2 ^ (31 - 24 + 1) - 1 ∧
    bitsOf (opcodeMask op) 15 15 = 2 ^ (15 - 15 + 1) - 1 ∧
    ∀ f : CmdField,
      bitsOf (opcodeMask op) f.bits.1 f.bits.2 = if f ∈ op.fields then 0 else 2 ^ (f.bits.1 - f.bits.2 + 1) - 1 := by
  cases op <;> exact ⟨rfl, rfl, rfl, fun f => by cases f <;> rfl⟩

/-- A match of the table is its opcode's number. -/
theorem bitsOf_opcodeMatch (op : Opcode) :
    bitsOf (opcodeMatch op) 3 0 = (opcodeNumber op).toNat ∧ bitsOf (opcodeMatch op) 31 24 = 0 ∧
    bitsOf (opcodeMatch op) 15 15 = 0 ∧ ∀ f : CmdField, bitsOf (opcodeMatch op) f.bits.1 f.bits.2 = 0 := by
  cases op <;> exact ⟨rfl, rfl, rfl, fun f => by cases f <;> rfl⟩

/-- The decoder's test is R74's: bit for bit, the mask keeps what must be the opcode or 0. -/
theorem and_opcodeMask_eq_iff {op : Opcode} {w : Word} : w &&& opcodeMask op = opcodeMatch op ↔ op.Fits w := by
  obtain ⟨kop, khigh, k15, kfields⟩ := bitsOf_opcodeMask op
  obtain ⟨mop, mhigh, m15, mfields⟩ := bitsOf_opcodeMatch op
  have hfield (f : CmdField) :
      bitsOf (w &&& opcodeMask op) f.bits.1 f.bits.2 = if f ∈ op.fields then 0 else bitsOf w f.bits.1 f.bits.2 := by
    rw [bitsOf_and, kfields]
    split
    · exact Nat.and_zero _
    · exact bitsOf_and_ones ..
  rw [word_eq_iff, bitsOf_and, bitsOf_and, bitsOf_and, kop, khigh, k15, bitsOf_and_ones, bitsOf_and_ones, bitsOf_and_ones,
    mop, mhigh, m15, bitsOf_op, BitVec.toNat_inj]
  simp only [hfield, mfields, ite_eq_left_iff]
  exact ⟨fun ⟨hop, hhigh, h15, hunused⟩ => ⟨hop, hhigh, h15, hunused⟩,
    fun hfits => ⟨hfits.number, hfits.high, hfits.bit15, hfits.unused⟩⟩

/-- A word decodes exactly when it fits an opcode, and to that opcode's command (R75). -/
theorem decode_eq_ok_iff {w : Word} {i : Instr} : decode w = .ok i ↔ ∃ op : Opcode, op.Fits w ∧ readFields op w = i := by
  constructor
  · intro h
    unfold decode at h
    split at h
    · cases h
    · next op hop =>
      split at h <;> cases h
      next hmask => exact ⟨op, and_opcodeMask_eq_iff.mp hmask, rfl⟩
  · rintro ⟨op, hfits, rfl⟩
    simp [decode, hfits.number, opcodeOf_opcodeNumber, and_opcodeMask_eq_iff.mpr hfits]

theorem CmdField.mem_all (f : CmdField) : f ∈ CmdField.all := by cases f <;> decide

/-- R74's field table accepts exactly the words that fit an opcode. -/
theorem commandWordWellFormed_iff {w : Word} : commandWordWellFormed w = true ↔ ∃ op : Opcode, op.Fits w := by
  rw [commandWordWellFormed, bitsOf_op, fieldsUsed_eq_map]
  cases hop : opcodeOf (fieldOP w) with
  | none =>
    refine ⟨nofun, fun ⟨op, hfits⟩ => ?_⟩
    rw [hfits.number, opcodeOf_opcodeNumber] at hop
    cases hop
  | some op =>
    simp only [Option.map_some, Bool.and_eq_true, beq_iff_eq, List.all_eq_true, Bool.or_eq_true, List.contains_iff_mem]
    constructor
    · rintro ⟨⟨hhigh, h15⟩, hfields⟩
      exact ⟨op, opcodeNumber_of_opcodeOf hop, hhigh, h15, fun f hf => (hfields f f.mem_all).resolve_left hf⟩
    · rintro ⟨op', hfits⟩
      rw [hfits.number, opcodeOf_opcodeNumber] at hop
      cases hop
      exact ⟨⟨hfits.high, hfits.bit15⟩, fun f _ => or_iff_not_imp_left.mpr (hfits.unused f)⟩

/-! ### The encoder -/

/-- A field of an encoded command: the value read where the opcode uses the field, 0 elsewhere (R73). -/
def Opcode.keep (op : Opcode) (f : CmdField) {n : Nat} (v : BitVec n) : BitVec n := if f ∈ op.fields then v else 0

theorem encode_readFields (op : Opcode) (w : Word) :
    encode (readFields op w) =
      cmd32 (op.keep .D (fieldD w)) (op.keep .H (fieldH w).bit) (op.keep .S (fieldS w).bit) (op.keep .K (fieldK w).bit)
        (op.keep .R (fieldR w).bit) (op.keep .A (fieldA w)) (opcodeNumber op) := by
  cases op <;> rfl

theorem Opcode.keep_eq_zero {op : Opcode} {f : CmdField} (hf : f ∉ op.fields) {n : Nat} (v : BitVec n) : op.keep f v = 0 :=
  if_neg hf

theorem Opcode.keep_eq_self {op : Opcode} {f : CmdField} {n : Nat} {v : BitVec n} (h : f ∉ op.fields → v.toNat = 0) :
    op.keep f v = v := by
  unfold keep
  split
  · rfl
  · next hf => exact (BitVec.eq_of_toNat_eq (h hf)).symm

theorem fits_encode_readFields (op : Opcode) (w : Word) : op.Fits (encode (readFields op w)) := by
  rw [encode_readFields]
  refine ⟨fieldOP_cmd32 .., bitsOf_high_cmd32 .., bitsOf_15_cmd32 .., fun f hf => ?_⟩
  rw [bitsOf_cmd32]
  cases f <;> simp [CmdField.pick, Opcode.keep_eq_zero hf]

theorem Opcode.Fits.encode_eq {op : Opcode} {w : Word} (h : op.Fits w) : encode (readFields op w) = w := by
  have hzero (f : CmdField) (hf : f ∉ op.fields) := (bitsOf_field w f).symm.trans (h.unused f hf)
  rw [encode_readFields, ← h.number, keep_eq_self (hzero .D), keep_eq_self (hzero .H), keep_eq_self (hzero .S),
    keep_eq_self (hzero .K), keep_eq_self (hzero .R), keep_eq_self (hzero .A)]
  exact (eq_cmd32_of_reserved h.high h.bit15).symm

/-- The opcode of a command (R73). -/
def Instr.opcode : Instr → Opcode
  | .start _ _ => .start
  | .restart _ _ => .restart
  | .stop => .stop
  | .wrbyte _ => .wrbyte
  | .rdbyte _ => .rdbyte
  | .qwrite _ _ _ => .qwrite
  | .qread _ _ _ => .qread
  | .getwcnt => .getwcnt
  | .getrcnt => .getrcnt
  | .clrwbuf => .clrwbuf
  | .clrrbuf => .clrrbuf
  | .getstat => .getstat
  | .clrstat => .clrstat
  | .rstwa => .rstwa

theorem readFields_encode (i : Instr) : readFields i.opcode (encode i) = i := by
  cases i <;> simp [Instr.opcode, readFields, encode]

theorem fits_encode (i : Instr) : i.opcode.Fits (encode i) := by
  have h := fits_encode_readFields i.opcode (encode i)
  rwa [readFields_encode] at h

/-- A word fails to decode exactly when R74's field table rejects it. -/
theorem exists_decode_eq_error_iff {w : Word} : (∃ why, decode w = .error why) ↔ commandWordWellFormed w = false := by
  rw [← Bool.not_eq_true, commandWordWellFormed_iff]
  cases hw : decode w with
  | error why =>
    refine iff_of_true ⟨why, rfl⟩ fun ⟨op, hfits⟩ => ?_
    rw [decode_eq_ok_iff.mpr ⟨op, hfits, rfl⟩] at hw
    cases hw
  | ok i =>
    obtain ⟨op, hfits, -⟩ := decode_eq_ok_iff.mp hw
    exact iff_of_false nofun fun h => h ⟨op, hfits⟩

/-- Settles O1: an encoded command fits its opcode, and its fields read back its operands. -/
theorem decodeOfEncode : Obligations.DecodeOfEncode :=
  fun i _ => decode_eq_ok_iff.mpr ⟨i.opcode, fits_encode i, readFields_encode i⟩

/-- Settles O2: a word that fits an opcode has no bit outside the opcode and the fields the command is read from. -/
theorem encodeOfDecode : Obligations.EncodeOfDecode := by
  intro w i h
  obtain ⟨op, hfits, rfl⟩ := decode_eq_ok_iff.mp h
  exact hfits.encode_eq

/-- Settles O4: each word is decoded. -/
theorem specExampleWords : Obligations.SpecExampleWords := by
  unfold Obligations.SpecExampleWords
  decide

end Sys2Proof

namespace Sys2Proof.Machine

theorem commandWrite_of_decode_error {s : State} {w : Word} {why : BadWord} (hop : s.st.op = .none)
    (hwhy : decode w = .error why) : commandWrite w s = .refused (.badCommandWord why w) := by
  simp [commandWrite, busyBit, hop, hwhy]

/-- Settles O3: R74's field table rejects exactly the words that fit no opcode, which are those that do not decode. -/
theorem reservedWordsRefused : Obligations.ReservedWordsRefused := by
  refine ⟨fun w => exists_decode_eq_error_iff, fun s w rest hm hop hw => ?_⟩
  obtain ⟨why, hwhy⟩ := exists_decode_eq_error_iff.mpr hw
  rw [step_of_moves hm]
  exact ⟨why, commandWrite_of_decode_error hop hwhy⟩

/-- The read bit joins the address shifted left by one (R77). -/
theorem wireByte_eq_shiftLeft_or (a : SlaveAddr) (r : Dir) : wireByte a r = (a.setWidth 8 <<< 1) ||| r.bit.setWidth 8 := by
  rw [wireByte, BitVec.append_def, BitVec.shiftLeftZeroExtend_eq, BitVec.setWidth'_eq]

/-- Settles O5. -/
theorem wireByteLayout : Obligations.WireByteLayout := by
  refine ⟨fun a => wireByte_eq_shiftLeft_or a .read, fun a => ?_, rfl, rfl, rfl, rfl⟩
  rw [wireByte_eq_shiftLeft_or]
  exact BitVec.or_zero

end Sys2Proof.Machine

/-! PROOFS. What the steps append to the trace (10_state.md R37), and the master commands among it (30_encoding.md R78). -/

namespace Sys2Proof.Machine

/-- The master commands the engine issues (R78). -/
def masterCommands : List CmdSet := [0x01, 0x11, 0x02, 0x12, 0x04, 0x14, 0x08]

/-- An entry that is no master command, or is one of the seven. -/
def Action.Permitted (x : Action) : Prop := ∀ c, x = .scbCmd c → c ∈ masterCommands

/-- The second trace is the first with permitted entries after it. -/
def Appends (l l' : List Action) : Prop := ∃ new, l' = l ++ new ∧ ∀ x ∈ new, x.Permitted

theorem Appends.refl (l : List Action) : Appends l l := ⟨[], by simp, by simp⟩

theorem Appends.trans {l₁ l₂ l₃ : List Action} (h : Appends l₁ l₂) (h' : Appends l₂ l₃) : Appends l₁ l₃ := by
  obtain ⟨new, rfl, hnew⟩ := h
  obtain ⟨new', rfl, hnew'⟩ := h'
  exact ⟨new ++ new', List.append_assoc .., fun x hx => (List.mem_append.mp hx).elim (hnew x) (hnew' x)⟩

/-- One entry more. -/
theorem Appends.snoc {l l' : List Action} {x : Action} (h : Appends l l') (hx : x.Permitted) : Appends l (l' ++ [x]) :=
  h.trans ⟨[x], rfl, by simpa using hx⟩

/-- One entry more that is no master command. -/
theorem Appends.other {l l' : List Action} {x : Action} (h : Appends l l') (hx : ∀ c, x ≠ .scbCmd c := by nofun) :
    Appends l (l' ++ [x]) :=
  h.snoc fun c hc => absurd hc (hx c)

/-- One entry that is no master command. -/
theorem Appends.single {l : List Action} {x : Action} (hx : ∀ c, x ≠ .scbCmd c := by nofun) : Appends l (l ++ [x]) :=
  (Appends.refl l).other hx

/-- One master command more. -/
theorem Appends.cmd {l l' : List Action} {c : CmdSet} (h : Appends l l') (hc : c ∈ masterCommands) :
    Appends l (l' ++ [.scbCmd c]) :=
  h.snoc fun _ heq => Action.scbCmd.inj heq ▸ hc

/-! ### The shared operations -/

/-- START, RESTART and STOP, with or without NACK, are six of the seven (R91, R97, R142). -/
theorem withOwedNack_mem {c : CmdSet} (hc : c ∈ [cmdStart, cmdRestart, cmdStop]) (owed : Bool) :
    withOwedNack owed c ∈ masterCommands := by
  revert c
  cases owed <;> decide

theorem addrIssue_appends (a : SlaveAddr) (r : Dir) (p : StartPolicy) (owed : Bool) (s : State) :
    Appends s.trace (addrIssue a r p owed s).trace := by
  cases p with
  | start => exact .cmd .single (withOwedNack_mem (by decide) owed)
  | restart => exact ((Appends.refl _).cmd (withOwedNack_mem (by decide) owed)).other

theorem complete_appends (s : State) : Appends s.trace (complete s).trace := by
  unfold complete
  split
  · exact (Appends.refl _).cmd (withOwedNack_mem (by decide) _)
  · exact .refl _

theorem faultRecover_appends (kind : FaultKind) (m : Byte) (who : FaultEntry) (s : State) :
    Appends s.trace (faultRecover kind m who s).trace := by
  obtain ⟨-, -, -, htrace, -⟩ := faultRecover_fields kind m who s
  exact ⟨_, htrace, by simp [Action.Permitted]⟩

theorem scbRx_appends (s : State) : Appends s.trace (scbRx s).2.trace := by
  unfold scbRx
  split <;> exact .single

/-! ### The foreground -/

theorem queueTransfer_appends (a : SlaveAddr) (d : Dir) (p : StartPolicy) (c : ComplPolicy) (s : State) :
    Appends s.trace (queueTransfer a d p c s).trace := by
  unfold queueTransfer
  cases qCheck s with
  | nullBuffer => exact .refl _
  | illegalState => exact .refl _
  | busy => exact .single
  | fresh => exact .trans (.other .single) (addrIssue_appends a d p _ _)
  | resume => exact .trans .single (addrIssue_appends a d p _ _)

theorem rstwaRead_trace (s : State) :
    (rstwaRead s).trace = s.trace ++
      [.lineWrite false, .lineSetDriveMode .gpio, .scbEnable false, .lineWrite false, .delay Config.tLowUs, .lineWrite true,
        .delay Config.tHighUs, .lineWrite false, .delay Config.tLowUs, .scbEnable true, .lineSetDriveMode .periph,
        .scbCmd cmdStart] := by
  simp [rstwaRead]

/-- Both branches of the ReStart workaround issue START alone (R170). -/
theorem rstwaRead_appends (s : State) : Appends s.trace (rstwaRead s).trace :=
  ⟨_, rstwaRead_trace s, by simp [Action.Permitted, masterCommands, cmdStart]⟩

theorem rstwaWrite_appends (s : State) : Appends s.trace (rstwaWrite s).trace :=
  .cmd (.other .single) (by decide)

theorem exec_appends {i : Instr} {s t : State} (h : exec i s = .next t) : Appends s.trace t.trace := by
  cases i with
  | start a r =>
    cases h
    split
    · exact .refl _
    · split
      · exact .single
      · exact .trans .single (addrIssue_appends a r .start _ _)
  | restart a r =>
    cases h
    split
    · exact addrIssue_appends a r .restart _ (enterAddressPhase r s)
    · exact .refl _
  | stop =>
    cases h
    split
    · exact .refl _
    · exact (Appends.refl _).cmd (withOwedNack_mem (by decide) _)
  | wrbyte d =>
    cases h
    split
    · exact .single
    · exact .refl _
  | rdbyte k => cases h; split <;> exact .refl _
  | qwrite a p c => cases h; exact queueTransfer_appends ..
  | qread a p c => cases h; exact queueTransfer_appends ..
  | getwcnt => cases h; exact .refl _
  | getrcnt => cases h; exact .refl _
  | clrwbuf => cases h; exact .refl _
  | clrrbuf => cases h; exact .refl _
  | getstat => cases h; exact .refl _
  | clrstat => cases h; exact .refl _
  | rstwa =>
    cases h
    split
    · exact .refl _
    · have hacquire : Appends s.trace (csAcquire s).trace := .single
      split
      · exact (hacquire.trans (rstwaRead_appends _)).other
      · exact (hacquire.trans (rstwaWrite_appends _)).other

theorem resolveBy_appends {w : Wait} {o : Source} {s t : State} (h : resolveBy w o s = .next t) :
    Appends s.trace t.trace := by
  cases w with
  | none => cases h
  | addr =>
    cases o <;> cases h
    · exact .single
    · exact .single
    · exact faultRecover_appends ..
    · exact faultRecover_appends ..
  | wr =>
    cases o <;> cases h
    · exact .single
    · exact .single
    · exact faultRecover_appends ..
    · exact faultRecover_appends ..
  | rd k =>
    cases o <;> cases h
    · exact faultRecover_appends ..
    · exact faultRecover_appends ..
    · have hread := (scbRx_appends s).other (x := .scbClear maskRd)
      cases k with
      | ack => exact hread.cmd (by decide)
      | nack => exact hread
  | stop =>
    cases o <;> cases h
    · exact faultRecover_appends ..
    · exact faultRecover_appends ..
    · exact .single

theorem resolveStep_appends {s t : State} (h : resolveStep s = .next t) : Appends s.trace t.trace := by
  obtain ⟨o, -, hby⟩ := resolveStep_next h
  exact .trans .single (resolveBy_appends hby)

/-! ### The interrupt path -/

theorem queueByte_appends {i : Len} {s t : State} (h : queueByte i s = .ok t) : Appends s.trace t.trace := by
  obtain ⟨v, -, rfl⟩ := queueByte_ok h
  exact .other .single

theorem bufferedAddrAck_appends {s t : State} (h : bufferedAddrAck s = .ok t) : Appends s.trace t.trace := by
  have hclear : Appends s.trace (scbClear maskAddr s).trace := .single
  simp only [bufferedAddrAck] at h
  split at h
  · split at h
    · cases h
      exact hclear.trans (complete_appends _)
    · split at h <;> cases h
      next hqueued => exact (hclear.trans (queueByte_appends hqueued :)).other
  · split at h <;> cases h
    · exact hclear.trans (complete_appends _)
    · exact hclear

theorem bufferedByteAck_appends {s t : State} (h : bufferedByteAck s = .ok t) : Appends s.trace t.trace := by
  have hclear : Appends s.trace (scbClear (maskAddr ||| sourceMask .txUnderflow) s).trace := .single
  simp only [bufferedByteAck] at h
  split at h
  · cases h
    exact hclear.trans (complete_appends _)
  · exact hclear.trans (queueByte_appends h :)

theorem drain_appends {n : Nat} {s t : State} (h : drain n s = .ok t) : Appends s.trace t.trace := by
  induction n generalizing s with
  | zero => cases h; exact .refl _
  | succ n ih =>
    simp only [drain] at h
    split at h
    · cases h
    · next hwritten =>
      obtain ⟨m, -, rfl⟩ := memWrite_ok hwritten
      exact ((scbRx_appends s).other).trans (ih h)

theorem afterDrain_appends (m : Byte) (n : Nat) (s : State) : Appends s.trace (afterDrain m n s).trace := by
  have hclear : Appends s.trace (scbClear (readClearMask m s) s).trace := .single
  simp only [afterDrain]
  split
  · exact hclear
  · split
    · exact hclear.trans (complete_appends _)
    · split <;> exact hclear.cmd (by decide)

theorem bufferedReadData_appends {m : Byte} {s t : State} (h : bufferedReadData m s = .ok t) : Appends s.trace t.trace := by
  obtain ⟨n, u, -, hdrain, rfl⟩ := bufferedReadData_ok h
  exact (Appends.trans .single (drain_appends hdrain)).trans (afterDrain_appends m n u)

theorem continueWith_appends {o : Source} {m : Byte} {s t : State} (h : continueWith o m s = .ok t) :
    Appends s.trace t.trace := by
  cases o with
  | mAck =>
    simp only [continueWith] at h
    split at h
    · exact bufferedAddrAck_appends h
    · exact bufferedByteAck_appends h
  | mNack =>
    simp only [continueWith] at h
    split at h <;> cases h <;> exact .single
  | mArbLost => cases h; exact faultRecover_appends ..
  | mBusErr => cases h; exact faultRecover_appends ..
  | mStop => cases h; exact .single
  | rxNotEmpty => exact bufferedReadData_appends h
  | rxFull => exact bufferedReadData_appends h
  | txUnderflow => cases h; exact .single

/-! ### The agents' steps -/

/-- Every step but driver initialisation, which empties the trace, appends permitted entries to it. -/
theorem runMove_appends {m : Move} {s t : State} (hinit : m ≠ .driverInit) (h : runMove m s = .next t) :
    Appends s.trace t.trace := by
  cases m with
  | hostWrite offset width v =>
    rcases hostWriteStep_next h with ⟨-, -, hcmd⟩ | rfl | rfl | rfl
    · obtain ⟨-, i, -, hexec⟩ := commandWrite_next hcmd
      exact exec_appends hexec
    · exact .refl _
    · exact .refl _
    · exact .refl _
  | hostRead offset width =>
    simp only [runMove, hostReadStep] at h
    split at h <;> cases h
    exact .refl _
  | callerStore a v =>
    simp only [runMove, callerStoreStep] at h
    split at h <;> cases h
    exact .refl _
  | resolve => exact resolveStep_appends h
  | interrupt =>
    obtain ⟨c, -, hcont⟩ := interruptStep_next h
    exact .trans .single (continueWith_appends hcont)
  | env e =>
    obtain ⟨scb, rfl, -⟩ := envStep_next h
    exact .refl _
  | driverInit => exact absurd rfl hinit

/-- Settles O56: each agent's step appends permitted entries only. -/
theorem onlySevenMasterCommands : Obligations.OnlySevenMasterCommands := by
  intro s t m rest hm hinit h
  rw [step_of_moves hm] at h
  obtain ⟨new, htrace, hnew⟩ := runMove_appends hinit h
  exact ⟨new, htrace, fun c hc => hnew _ hc c rfl⟩

end Sys2Proof.Machine

/-! PROOFS. The manual sequencer: address issue (40_sequencer.md R91), the issue steps of the five manual commands (R95 to R101) and
the resolve steps of their waits (R94 to R102). -/

namespace Sys2Proof.Machine

/-! ### Address issue -/

/-- START comes after the address byte (R91). -/
theorem addrIssue_start_eq (a : SlaveAddr) (r : Dir) (owed : Bool) (s : State) :
    addrIssue a r .start owed s =
      { s with scb := { s.scb with tx := s.scb.tx ++ [a ++ r.bit] }
               trace := s.trace ++ [.scbTx (a ++ r.bit), .scbCmd (withOwedNack owed cmdStart)] } := by
  simp [addrIssue, scbCmd, scbTx, record, wireByte]

/-- RESTART comes before the address byte (R91). -/
theorem addrIssue_restart_eq (a : SlaveAddr) (r : Dir) (owed : Bool) (s : State) :
    addrIssue a r .restart owed s =
      { s with scb := { s.scb with tx := s.scb.tx ++ [a ++ r.bit] }
               trace := s.trace ++ [.scbCmd (withOwedNack owed cmdRestart), .scbTx (a ++ r.bit)] } := by
  simp [addrIssue, scbCmd, scbTx, record, wireByte]

/-- Settles O12: an owed NACK turns 0x01 into 0x11 and 0x02 into 0x12. -/
theorem addressIssueOrder : Obligations.AddressIssueOrder := fun a r s =>
  ⟨addrIssue_start_eq a r false s, addrIssue_start_eq a r true s,
    addrIssue_restart_eq a r false s, addrIssue_restart_eq a r true s⟩

/-- The owed NACK of R92, spelt out. -/
theorem rdOwed_iff {e : Engine} :
    rdOwed e = true ↔ e.dir = .read ∧ (e.state = .dataRd ∨ e.state = .halted ∧ e.haltCause ≠ .addrNak) := by
  simp [rdOwed]

theorem withOwedNack_rdOwed (e : Engine) (c : CmdSet) :
    withOwedNack (rdOwed e) c =
      if e.dir = .read ∧ (e.state = .dataRd ∨ e.state = .halted ∧ e.haltCause ≠ .addrNak) then c ||| cmdNack else c :=
  if_congr rdOwed_iff rfl rfl

theorem addrState_eq (r : Dir) : addrState r = if r = .read then .addrRd else .addrWr := by cases r <;> rfl

theorem dataState_eq (r : Dir) : dataState r = if r = .read then .dataRd else .dataWr := by cases r <;> rfl

/-! ### Issue steps -/

/-- A result given at issue writes RSP alone, since BUSY is 0 already (R33). -/
theorem respond_of_op_none {s : State} (hop : s.st.op = .none) (c : ResultCode) (d : Byte) (v : BitVec 16) :
    respond c d v s = { s with rsp := ⟨c, d, v⟩ } := by
  simp [respond, ← hop]

theorem restartAllowed_iff {e : Engine} :
    restartAllowed e = true ↔ e.armed = .none ∧ (e.state = .dataWr ∨ e.state = .dataRd ∨ e.state = .halted) := by
  simp [restartAllowed, or_assoc]

theorem writeByteAllowed_iff {e : Engine} :
    writeByteAllowed e = true ↔ e.armed = .none ∧
      (e.state = .dataWr ∨ e.state = .halted ∧ e.dir = .write ∧ (e.haltCause = .wrAck ∨ e.haltCause = .bufHalt)) := by
  simp [writeByteAllowed, and_assoc]

theorem readByteAllowed_iff {e : Engine} : readByteAllowed e = true ↔ e.armed = .none ∧ e.state = .dataRd := by
  simp [readByteAllowed]

/-- Settles O15: outside IDLE, in IDLE on a busy bus, in IDLE on a free one. -/
theorem startIssue : Obligations.StartIssue := by
  intro a r s hop
  refine ⟨fun hstate => ?_, fun hidle hbusy => ?_, fun hidle hfree => ?_⟩
  · simp [exec, execStart, hstate, respond_of_op_none hop]
  · simp [exec, execStart, hidle, hbusy, respond_of_op_none (s := scbBusBusy s) hop]
  · simp [exec, execStart, hidle, hfree, addrIssue_start_eq, addrState_eq, beginWait, scbBusBusy, record, withOwedNack, cmdStart]

/-- Settles O16: NACK is owed by the state that the command finds, before it enters the address phase. -/
theorem restartIssue : Obligations.RestartIssue := by
  intro a r s hop
  refine ⟨fun hrefused => ?_, fun harmed hstate => ?_⟩
  · have hguard : ¬restartAllowed s.st = true := by rw [restartAllowed_iff]; tauto
    simp [exec, execRestart, hguard, respond_of_op_none hop]
  · have hguard : restartAllowed s.st = true := restartAllowed_iff.mpr ⟨harmed, hstate⟩
    simp [exec, execRestart, hguard, addrIssue_restart_eq, withOwedNack_rdOwed, addrState_eq, beginWait, enterAddressPhase,
      cmdRestart, cmdNack]

/-- Settles O17: in IDLE the parameter's result, elsewhere the disarm, STOP and the wait. -/
theorem stopIssue : Obligations.StopIssue := by
  intro s hop
  refine ⟨fun hidle => ?_, fun hstate => ?_⟩
  · have hcode : stopIdleCode Config.stopWhenIdleResult = if Config.stopWhenIdleResult = .ok then .ok else .notReady := by
      cases Config.stopWhenIdleResult <;> rfl
    simp [exec, execStop, hidle, respond_of_op_none hop, hcode]
  · simp [exec, execStop, hstate, withOwedNack_rdOwed, beginWait, scbCmd, record, cmdStop, cmdNack]

/-- Settles O18. -/
theorem writeByteIssue : Obligations.WriteByteIssue := by
  intro d s hop
  refine ⟨fun harmed hstate => ?_, fun hrefused => ?_⟩
  · have hguard : writeByteAllowed s.st = true := writeByteAllowed_iff.mpr ⟨harmed, hstate⟩
    simp [exec, execWrbyte, hguard, beginWait, scbTx, record]
  · have hguard : ¬writeByteAllowed s.st = true := by rw [writeByteAllowed_iff]; tauto
    simp [exec, execWrbyte, hguard, respond_of_op_none hop]

/-- Settles O19. -/
theorem readByteIssue : Obligations.ReadByteIssue := by
  intro k s hop
  refine ⟨fun harmed hstate => ?_, fun hrefused => ?_⟩
  · have hguard : readByteAllowed s.st = true := readByteAllowed_iff.mpr ⟨harmed, hstate⟩
    simp [exec, execRdbyte, hguard, beginWait]
  · have hguard : ¬readByteAllowed s.st = true := by rw [readByteAllowed_iff]; tauto
    simp [exec, execRdbyte, hguard, respond_of_op_none hop]

/-! ### The resolve step and the source it classifies -/

/-- A scheduled resolve step is the outcome of its wait for the source classified (R13). -/
theorem step_of_resolve {s : State} {rest : List Move} {w : Wait} {o : Source} (hm : s.moves = .resolve :: rest)
    (hop : s.st.op = w) (ho : classify s.scb.pend (waitOrder w) = some o) :
    step s = resolveBy w o (endWait (scbPending { s with moves := rest })) := by
  subst hop
  rw [step_of_moves hm]
  simp [runMove, resolveStep, ho]

/-- With none of a wait's sources pending its resolve step is not enabled; `m` is the mask of those sources. -/
theorem step_of_resolve_disabled {s : State} {rest : List Move} {w : Wait} (m : Byte) (hm : s.moves = .resolve :: rest)
    (hop : s.st.op = w) (hmask : ∀ x ∈ waitOrder w, m.getLsbD (sourceBit x) = true) (hnone : s.scb.pend &&& m = 0) :
    step s = .fault (.noStep .foreground) := by
  have hclear : ∀ x ∈ waitOrder w, s.scb.pend.getLsbD (sourceBit x) = false := fun x hx => by
    have hbit : (s.scb.pend &&& m).getLsbD (sourceBit x) = false := by simp [hnone]
    simpa [BitVec.getLsbD_and, hmask x hx] using hbit
  subst hop
  rw [step_of_moves hm]
  simp [runMove, resolveStep, classify_eq_none_iff.mpr hclear, noStep]

/-- A source that is not pending is passed over (R14). -/
theorem classify_cons_of_clear {p : Byte} {x : Source} {order : List Source} {o : Source}
    (hclear : p.getLsbD (sourceBit x) = false) (ho : classify p order = some o) : classify p (x :: order) = some o := by
  simpa [classify, hclear] using ho

theorem classify_orderAddr_nack {p : Byte} (hack : p.getLsbD 0 = false) (hnack : p.getLsbD 1 = true) :
    classify p orderAddr = some .mNack :=
  classify_cons_of_clear hack (classify_cons_of_pending _ hnack)

theorem classify_orderAddr_arbLost {p : Byte} (hack : p.getLsbD 0 = false) (hnack : p.getLsbD 1 = false)
    (harb : p.getLsbD 2 = true) : classify p orderAddr = some .mArbLost :=
  classify_cons_of_clear hack (classify_cons_of_clear hnack (classify_cons_of_pending _ harb))

theorem classify_orderAddr_busErr {p : Byte} (hack : p.getLsbD 0 = false) (hnack : p.getLsbD 1 = false)
    (harb : p.getLsbD 2 = false) (hbus : p.getLsbD 3 = true) : classify p orderAddr = some .mBusErr :=
  classify_cons_of_clear hack (classify_cons_of_clear hnack (classify_cons_of_clear harb (classify_cons_of_pending _ hbus)))

/-- What a resolve step has done once it has ended its wait and cleared what it watched. -/
theorem scbClear_endWait_scbPending (m : Byte) (s : State) :
    scbClear m (endWait (scbPending s)) =
      { s with st := { s.st with op := .none }
               scb := { s.scb with pend := s.scb.pend &&& ~~~m }
               trace := s.trace ++ [.scbPending s.scb.pend, .scbClear m] } := by
  simp [scbClear, endWait, scbPending, record]

/-! ### Resolve steps -/

/-- Settles O20: M_ACK, M_NACK, arbitration loss and bus error in the order of ORDER_ADDR. -/
theorem addressResolve : Obligations.AddressResolve := by
  intro s rest hm hop
  refine ⟨fun hack => ?_, fun hack hnack => ?_, fun hack hnack harb => ?_, fun hack hnack harb hbus => ?_,
    step_of_resolve_disabled 0x0F hm hop (by decide)⟩
  · rw [step_of_resolve hm hop (classify_cons_of_pending _ hack)]
    simp only [resolveBy, resolveAddr, scbClear_endWait_scbPending, dataState_eq]
    rfl
  · rw [step_of_resolve hm hop (classify_orderAddr_nack hack hnack)]
    simp only [resolveBy, resolveAddr, scbClear_endWait_scbPending]
    rfl
  · exact step_of_resolve hm hop (classify_orderAddr_arbLost hack hnack harb)
  · exact step_of_resolve hm hop (classify_orderAddr_busErr hack hnack harb hbus)

/-- Settles O21: M_STOP, arbitration loss and bus error in the order of ORDER_STOP. -/
theorem stopResolve : Obligations.StopResolve := by
  intro s rest hm hop
  refine ⟨fun hstop => ?_, fun hstop harb => ?_, fun hstop harb hbus => ?_,
    step_of_resolve_disabled 0x1C hm hop (by decide)⟩
  · rw [step_of_resolve hm hop (classify_cons_of_pending _ hstop)]
    simp only [resolveBy, resolveStop, scbClear_endWait_scbPending]
    rfl
  · exact step_of_resolve hm hop (classify_cons_of_clear hstop (classify_cons_of_pending _ harb))
  · exact step_of_resolve hm hop
      (classify_cons_of_clear hstop (classify_cons_of_clear harb (classify_cons_of_pending _ hbus)))

/-- Settles O22: as in the address phase, with the engine HALTED by either answer of the slave. -/
theorem writeByteResolve : Obligations.WriteByteResolve := by
  intro s rest hm hop
  refine ⟨fun hack => ?_, fun hack hnack => ?_, fun hack hnack harb => ?_, fun hack hnack harb hbus => ?_,
    step_of_resolve_disabled 0x0F hm hop (by decide)⟩
  · rw [step_of_resolve hm hop (classify_cons_of_pending _ hack)]
    simp only [resolveBy, resolveWr, scbClear_endWait_scbPending]
    rfl
  · rw [step_of_resolve hm hop (classify_orderAddr_nack hack hnack)]
    simp only [resolveBy, resolveWr, scbClear_endWait_scbPending]
    rfl
  · exact step_of_resolve hm hop (classify_orderAddr_arbLost hack hnack harb)
  · exact step_of_resolve hm hop (classify_orderAddr_busErr hack hnack harb hbus)

theorem scbRx_of_cons {s : State} {b : Byte} {more : List Byte} (h : s.scb.rx = b :: more) :
    scbRx s = (b, record (.scbRx b) { s with scb := { s.scb with rx := more } }) := by
  simp [scbRx, h]

/-- An empty FIFO stays empty and gives a free byte (U3). -/
theorem scbRx_of_nil {s : State} (h : s.scb.rx = []) :
    scbRx s = (Config.freeRxByte s.freeCount,
      record (.scbRx (Config.freeRxByte s.freeCount)) { s with freeCount := s.freeCount + 1 }) := by
  simp [scbRx, h]

/-- A byte received as `x`, leaving the FIFO `rx` and the counter `n`, is cleared and then answered by policy (R102). -/
theorem resolveRd_of_scbRx {s : State} {x : Byte} {rx : List Byte} {n : Nat} (k : AckPolicy)
    (h : scbRx s = (x, record (.scbRx x) { s with scb := { s.scb with rx := rx }, freeCount := n })) :
    resolveRd k .rxNotEmpty s =
      .next { s with
        st := if k = .ack then { s.st with op := .none }
              else { s.st with op := .none, state := .halted, haltCause := .rdNak }
        scb := { s.scb with rx := rx, pend := s.scb.pend &&& 0xD3 }
        rsp := ⟨.ok, x, 0⟩
        freeCount := n
        trace := s.trace ++ [.scbRx x, .scbClear 0x2C] ++ (if k = .ack then [.scbCmd 0x08] else []) } := by
  cases k <;> simp [resolveRd, h, answerByte, scbClear, scbCmd, haltWith, respond, record, maskRd, cmdAck]

/-- Settles O23: the data source, arbitration loss and bus error in the order of ORDER_RD. -/
theorem readByteResolve : Obligations.ReadByteResolve := by
  intro s k rest hm hop
  have hwatched : ∀ x ∈ orderRd, (0x2C : Byte).getLsbD (sourceBit x) = true := by decide
  refine ⟨fun b more hpend hrx => ?_, fun hpend hrx => ⟨Config.freeRxByte s.freeCount, s.freeCount + 1, ?_⟩,
    fun hpend harb => ?_, fun hpend harb hbus => ?_, step_of_resolve_disabled 0x2C hm hop hwatched⟩
  · have htaken := scbRx_of_cons (s := endWait (scbPending { s with moves := rest })) hrx
    rw [step_of_resolve hm hop (classify_cons_of_pending _ hpend), resolveBy, resolveRd_of_scbRx k htaken]
    simp [endWait, scbPending, record]
  · have hfree := scbRx_of_nil (s := endWait (scbPending { s with moves := rest })) hrx
    rw [step_of_resolve hm hop (classify_cons_of_pending _ hpend), resolveBy, resolveRd_of_scbRx k hfree]
    simp [endWait, scbPending, record]
  · exact step_of_resolve hm hop (classify_cons_of_clear hpend (classify_cons_of_pending _ harb))
  · exact step_of_resolve hm hop
      (classify_cons_of_clear hpend (classify_cons_of_clear harb (classify_cons_of_pending _ hbus)))

end Sys2Proof.Machine

/-! PROOFS. Buffered transfers: their completion (41_buffered.md R142) and the issue steps of QWRITE and QREAD (R131 to R134). -/

namespace Sys2Proof.Machine

/-! ### Completion -/

theorem completionFlag_eq (a : Armed) : completionFlag a = if a = .write then 0x02 else 0x01 := by cases a <;> rfl

/-- Settles O14: the two completion policies. -/
theorem completeEffect : Obligations.CompleteEffect := by
  intro s
  refine ⟨fun hstop => ?_, fun hhalt => ?_⟩
  · have hcmd : withOwedNack (rdOwed s.st) cmdStop = if rdOwed s.st = true then 0x14 else 0x04 := rfl
    simp [complete, hstop, scbCmd, record, hcmd]
  · simp [complete, hhalt, completionFlag_eq, setFlags, flagXferHalt, BitVec.or_assoc]

/-! ### The guard (R131) -/

theorem qCheck_of_argBuf_zero {s : State} (hbuf : s.argBuf = 0) : qCheck s = .nullBuffer :=
  if_pos hbuf

theorem qCheck_of_phase {s : State} (hbuf : s.argBuf ≠ 0) (hidle : s.st.state ≠ .idle) (hhalted : s.st.state ≠ .halted) :
    qCheck s = .illegalState := by
  rw [qCheck, if_neg hbuf]
  cases hstate : s.st.state with
  | idle => exact absurd hstate hidle
  | halted => exact absurd hstate hhalted
  | _ => rfl

theorem qCheck_of_idle {s : State} (hbuf : s.argBuf ≠ 0) (hidle : s.st.state = .idle) :
    qCheck s = if s.scb.busy then .busy else .fresh := by
  rw [qCheck, if_neg hbuf, hidle]

theorem qCheck_of_halted {s : State} (hbuf : s.argBuf ≠ 0) (hhalted : s.st.state = .halted) : qCheck s = .resume := by
  rw [qCheck, if_neg hbuf, hhalted]

/-! ### The issue step of a direction -/

/-- The trace entries of an address issue (R91). -/
def addrActions (a : SlaveAddr) (r : Dir) (p : StartPolicy) (owed : Bool) : List Action :=
  if p = .start then [.scbTx (a ++ r.bit), .scbCmd (withOwedNack owed cmdStart)]
  else [.scbCmd (withOwedNack owed cmdRestart), .scbTx (a ++ r.bit)]

theorem addrIssue_eq (a : SlaveAddr) (r : Dir) (p : StartPolicy) (owed : Bool) (s : State) :
    addrIssue a r p owed s =
      { s with scb := { s.scb with tx := s.scb.tx ++ [a ++ r.bit] }, trace := s.trace ++ addrActions a r p owed } := by
  cases p with
  | start => exact addrIssue_start_eq a r owed s
  | restart => exact addrIssue_restart_eq a r owed s

/-- The entries of an address issue from HALTED, with the owed NACK of R92 spelt out. -/
theorem addrActions_of_halted (a : SlaveAddr) (r : Dir) (p : StartPolicy) {e : Engine} (hhalted : e.state = .halted) :
    addrActions a r p (rdOwed e) =
      if e.dir = .read ∧ e.haltCause ≠ .addrNak then addrActions a r p true else addrActions a r p false := by
  have howed : rdOwed e = true ↔ e.dir = .read ∧ e.haltCause ≠ .addrNak := by simp [rdOwed_iff, hhalted]
  rw [← if_congr howed rfl rfl]
  cases rdOwed e <;> rfl

/-- The state after an accepted buffered command: the setup of its direction that clears the flags `f`, the arming, and the trace entries
`before` the address issue (R132 to R134). -/
def State.queued (a : SlaveAddr) (d : Dir) (p : StartPolicy) (h : ComplPolicy) (f : Byte) (before : List Action) (owed : Bool)
    (s : State) : State :=
  { s with
    st := s.st.setup d (newDescriptor s) ⟨p, h⟩ f
    scb := { s.scb with pend := 0, tx := s.scb.tx ++ [a ++ d.bit] }
    rsp := ⟨.ok, 0, 0⟩
    trace := s.trace ++ before ++ addrActions a d p owed }

section
variable (a : SlaveAddr) (d : Dir) (p : StartPolicy) (h : ComplPolicy) {s : State}

theorem queueTransfer_of_argBuf_zero (hop : s.st.op = .none) (hbuf : s.argBuf = 0) :
    queueTransfer a d p h s = { s with rsp := ⟨.notReady, 0, 0⟩ } := by
  rw [queueTransfer, qCheck_of_argBuf_zero hbuf]
  exact respond_of_op_none hop ..

theorem queueTransfer_of_phase (hop : s.st.op = .none) (hbuf : s.argBuf ≠ 0) (hidle : s.st.state ≠ .idle)
    (hhalted : s.st.state ≠ .halted) : queueTransfer a d p h s = { s with rsp := ⟨.notReady, 0, 0⟩ } := by
  rw [queueTransfer, qCheck_of_phase hbuf hidle hhalted]
  exact respond_of_op_none hop ..

theorem queueTransfer_of_busy (hop : s.st.op = .none) (hbuf : s.argBuf ≠ 0) (hidle : s.st.state = .idle)
    (hbusy : s.scb.busy = true) :
    queueTransfer a d p h s = { s with rsp := ⟨.busBusy, 0, 0⟩, trace := s.trace ++ [.scbBusBusy true] } := by
  rw [queueTransfer, qCheck_of_idle hbuf hidle, if_pos hbusy, ← hbusy]
  exact respond_of_op_none (s := scbBusBusy s) hop ..

/-- In IDLE on a free bus no NACK is owed (R92). -/
theorem queueTransfer_of_free (hbuf : s.argBuf ≠ 0) (hidle : s.st.state = .idle) (hfree : s.scb.busy = false) :
    queueTransfer a d p h s =
      s.queued a d p h (completionFlag (armedOf d)) [.scbBusBusy false, .scbClear 0xFF] false := by
  have howed : rdOwed s.st = false := by simp [rdOwed, hidle]
  rw [queueTransfer, qCheck_of_idle hbuf hidle, hfree]
  cases d <;>
    simp [qSetup, State.queued, Engine.setup, setDescriptor, newDescriptor, addrIssue_eq, respond, scbClear, scbBusBusy,
      record, maskAll, howed, hfree]

/-- From HALTED the setup clears XFER_HALT too, and owes NACK as R92 has it. -/
theorem queueTransfer_of_halted (hbuf : s.argBuf ≠ 0) (hhalted : s.st.state = .halted) :
    queueTransfer a d p h s =
      s.queued a d p h (flagXferHalt ||| completionFlag (armedOf d)) [.scbClear 0xFF] (rdOwed s.st) := by
  rw [queueTransfer, qCheck_of_halted hbuf hhalted]
  cases d <;>
    simp [qSetup, State.queued, Engine.setup, setDescriptor, newDescriptor, addrIssue_eq, respond, scbClear, record, maskAll,
      clearFlags_clearFlags]

end

/-- A setup with BUSY 0 leaves `st.op` as it is. -/
theorem Engine.setup_of_op_none {e : Engine} (hop : e.op = .none) (d : Dir) (x : Descriptor) (ctl : MasterControl) (f : Byte) :
    e.setup d x ctl f = { setDescriptor d x e with
      ctl := ctl, status := clearFlags f e.status, dir := d, haltCause := .none, stopPending := false
      state := addrState d, armed := armedOf d, dsrc := setupSource d x.len } := by
  cases d <;> simp [Engine.setup, setDescriptor, hop]

/-- Settles O25: the guard's refusals in their order, then the setup from IDLE and from HALTED. -/
theorem queueWriteIssue : Obligations.QueueWriteIssue := by
  intro a p h s hop
  refine ⟨fun hbuf => ?_, fun hbuf hidle hhalted => ?_, fun hbuf hidle hbusy => ?_, fun hbuf hidle hfree => ?_,
    fun hbuf hhalted => ?_⟩
  all_goals rw [exec, execQwrite]
  · rw [queueTransfer_of_argBuf_zero a .write p h hop hbuf]
  · rw [queueTransfer_of_phase a .write p h hop hbuf hidle hhalted]
  · rw [queueTransfer_of_busy a .write p h hop hbuf hidle hbusy]
  · rw [queueTransfer_of_free a .write p h hbuf hidle hfree, State.queued, Engine.setup_of_op_none hop]
    rfl
  · rw [queueTransfer_of_halted a .write p h hbuf hhalted, State.queued, Engine.setup_of_op_none hop,
      addrActions_of_halted a .write p hhalted]
    rfl

/-- Settles O26: as QWRITE, with the threshold of the data source at FIFO_DEPTH (R134). -/
theorem queueReadIssue : Obligations.QueueReadIssue := by
  intro a p h s hop
  refine ⟨fun hbuf => ?_, fun hbuf hidle hhalted => ?_, fun hbuf hidle hbusy => ?_, fun hbuf hidle hfree => ?_,
    fun hbuf hhalted => ?_⟩
  all_goals rw [exec, execQread]
  · rw [queueTransfer_of_argBuf_zero a .read p h hop hbuf]
  · rw [queueTransfer_of_phase a .read p h hop hbuf hidle hhalted]
  · rw [queueTransfer_of_busy a .read p h hop hbuf hidle hbusy]
  · rw [queueTransfer_of_free a .read p h hbuf hidle hfree, State.queued, Engine.setup_of_op_none hop]
    rfl
  · rw [queueTransfer_of_halted a .read p h hbuf hhalted, State.queued, Engine.setup_of_op_none hop,
      addrActions_of_halted a .read p hhalted]
    rfl

end Sys2Proof.Machine

/-! PROOFS. The continuation steps of the interrupt path, but for the data step of a read: when the path has a step (41_buffered.md
R135), and the rules R136 to R140, R143 and R144. -/

namespace Sys2Proof.Machine

/-! ### The watched mask of a row (R135) -/

/-- The mask of a list of sources. -/
def orderMask (order : List Source) : Byte := order.foldr (fun o m => sourceMask o ||| m) 0

/-- The mask of a row of R135's table is that of its list. -/
theorem interruptWatch_mask {e : Engine} {w : Watch} (hw : interruptWatch e = some w) : w.mask = orderMask w.order := by
  rw [interruptWatch] at hw
  split at hw
  · cases hw; rfl
  · cases hstate : e.state <;> rw [hstate] at hw <;> cases hw
    · rfl
    · rfl
    · rfl
    · cases e.dsrc <;> rfl

theorem and_sourceMask_eq_zero_iff {p : Byte} {o : Source} :
    p &&& sourceMask o = 0 ↔ p.getLsbD (sourceBit o) = false := by
  have hbit : sourceMask o = BitVec.twoPow 8 (sourceBit o) := by cases o <;> rfl
  have hne : BitVec.twoPow 8 (sourceBit o) ≠ 0 := by cases o <;> decide
  rw [hbit, BitVec.and_twoPow]
  split <;> simp_all

/-- Nothing is classified exactly when no bit of the list's mask is pending. -/
theorem classify_eq_none_iff_mask {p : Byte} {order : List Source} :
    classify p order = none ↔ p &&& orderMask order = 0 := by
  rw [classify_eq_none_iff]
  induction order with
  | nil => simp [orderMask]
  | cons o rest ih =>
    calc (∀ x ∈ o :: rest, p.getLsbD (sourceBit x) = false)
      _ ↔ p &&& sourceMask o = 0 ∧ p &&& orderMask rest = 0 := by
        rw [List.forall_mem_cons, ih, and_sourceMask_eq_zero_iff]
      _ ↔ p &&& (sourceMask o ||| orderMask rest) = 0 := by
        rw [BitVec.and_or_distrib_left]
        exact BitVec.or_eq_zero_iff.symm

theorem clear_of_and_orderMask {p : Byte} {order : List Source} (hclear : p &&& orderMask order = 0) :
    ∀ x ∈ order, p.getLsbD (sourceBit x) = false :=
  classify_eq_none_iff.mp (classify_eq_none_iff_mask.mpr hclear)

/-- Sources that are not pending are passed over (R14). -/
theorem classify_append_of_clear {p : Byte} {before : List Source} (after : List Source)
    (hbefore : ∀ x ∈ before, p.getLsbD (sourceBit x) = false) : classify p (before ++ after) = classify p after := by
  rw [← classify_eq_none_iff, classify_eq_find?] at hbefore
  rw [classify_eq_find?, classify_eq_find?, List.find?_append, hbefore, Option.none_or]

/-! ### When the path has a step (R135) -/

theorem interruptSource_ne_none_iff {s : State} :
    interruptSource s ≠ none ↔
      s.st.armed ≠ .none ∧ ∃ w, interruptWatch s.st = some w ∧ s.scb.pend &&& w.mask ≠ 0 := by
  constructor
  · intro hsource
    obtain ⟨c, hc⟩ := Option.ne_none_iff_exists'.mp hsource
    obtain ⟨harmed, w, hw, ho, -⟩ := interruptSource_some hc
    refine ⟨harmed, w, hw, fun hclear => ?_⟩
    rw [interruptWatch_mask hw, ← classify_eq_none_iff_mask, ho] at hclear
    cases hclear
  · rintro ⟨harmed, w, hw, hpend⟩
    rw [interruptWatch_mask hw, ne_eq, ← classify_eq_none_iff_mask] at hpend
    obtain ⟨o, ho⟩ := Option.ne_none_iff_exists'.mp hpend
    simp [interruptSource, harmed, hw, ho]

/-- The fault is that of an access where the platform has no memory (R58). -/
def Fault.IsRefusedAccess (f : Fault) : Prop := ∃ a, f = .memoryRefused a

theorem queueByte_error {i : Len} {s : State} {f : Fault} (h : queueByte i s = .error f) : f.IsRefusedAccess := by
  simp only [queueByte, memRead] at h
  cases hread : s.mem.read (bufferAddr s.st.wr.buf i) <;> rw [hread] at h <;> cases h
  exact ⟨_, rfl⟩

theorem bufferedAddrAck_error {s : State} {f : Fault} (h : bufferedAddrAck s = .error f) : f.IsRefusedAccess := by
  simp only [bufferedAddrAck] at h
  split at h
  · split at h
    · cases h
    · split at h
      · next hstuck => cases h; exact queueByte_error hstuck
      · cases h
  · split at h <;> cases h

theorem bufferedByteAck_error {s : State} {f : Fault} (h : bufferedByteAck s = .error f) : f.IsRefusedAccess := by
  simp only [bufferedByteAck] at h
  split at h
  · cases h
  · exact queueByte_error h

theorem drain_error {n : Nat} {s : State} {f : Fault} (h : drain n s = .error f) : f.IsRefusedAccess := by
  induction n generalizing s with
  | zero => cases h
  | succ n ih =>
    simp only [drain] at h
    split at h
    · next hstuck =>
      cases h
      unfold memWrite at hstuck
      split at hstuck <;> cases hstuck
      exact ⟨_, rfl⟩
    · exact ih h

theorem bufferedReadData_error {m : Byte} {s : State} {f : Fault} (h : bufferedReadData m s = .error f) :
    f.IsRefusedAccess := by
  simp only [bufferedReadData] at h
  split at h
  · next hstuck => cases h; exact drain_error hstuck
  · cases h

/-- A continuation is stuck for want of memory only. -/
theorem continueWith_error {o : Source} {m : Byte} {s : State} {f : Fault} (h : continueWith o m s = .error f) :
    f.IsRefusedAccess := by
  cases o with
  | mAck =>
    simp only [continueWith] at h
    split at h
    · exact bufferedAddrAck_error h
    · exact bufferedByteAck_error h
  | mNack =>
    simp only [continueWith] at h
    split at h <;> cases h
  | mArbLost => cases h
  | mBusErr => cases h
  | mStop => cases h
  | rxNotEmpty => exact bufferedReadData_error h
  | rxFull => exact bufferedReadData_error h
  | txUnderflow => cases h

theorem interruptStep_eq_noStep_iff {s : State} :
    interruptStep s = .fault (.noStep .interruptPath) ↔ interruptSource s = none := by
  unfold interruptStep
  split
  · next hnone => simp [noStep, hnone]
  · next c hc =>
    rw [hc]
    refine iff_of_false (fun hfault => ?_) nofun
    unfold outcomeOf at hfault
    split at hfault
    · cases hfault
    · next hstuck =>
      cases hfault
      obtain ⟨a, ha⟩ := continueWith_error hstuck
      cases ha

/-- Settles O27: the path has a step exactly when its row has a bit pending; then the rows, one by one. -/
theorem interruptPathEnabled : Obligations.InterruptPathEnabled := by
  intro s rest hm
  have henabled : step s ≠ .fault (.noStep .interruptPath) ↔
      s.st.armed ≠ .none ∧ ∃ w, interruptWatch s.st = some w ∧ s.scb.pend &&& w.mask ≠ 0 := by
    rw [step_of_moves hm]
    exact interruptStep_eq_noStep_iff.not.trans interruptSource_ne_none_iff
  rw [henabled]
  refine and_congr_right fun _ => ?_
  cases hstop : s.st.stopPending with
  | true => simp [interruptWatch, hstop, maskStop]
  | false =>
    cases hstate : s.st.state with
    | idle => simp [interruptWatch, hstop, hstate]
    | halted => simp [interruptWatch, hstop, hstate]
    | addrWr => simp [interruptWatch_of_addressPhase (.inl hstate) hstop, maskAddr]
    | addrRd => simp [interruptWatch_of_addressPhase (.inr hstate) hstop, maskAddr]
    | dataWr => simp [interruptWatch_of_dataWr hstate hstop, maskAddr, sourceMask, sourceBit]
    | dataRd =>
      cases hdsrc : s.st.dsrc <;>
        simp [interruptWatch_of_dataRd hstate hstop, hdsrc, dataSource, sourceMask, sourceBit]

/-! ### A step that cannot be stuck -/

theorem interruptWatch_of_stopPending {e : Engine} (hstop : e.stopPending = true) :
    interruptWatch e = some ⟨orderStop, maskStop⟩ :=
  if_pos hstop

/-- A scheduled interrupt step goes on where the continuation of its source does. -/
theorem step_of_interrupt_ok {s t : State} {rest : List Move} {w : Watch} {o : Source} (hm : s.moves = .interrupt :: rest)
    (harmed : s.st.armed ≠ .none) (hw : interruptWatch s.st = some w) (ho : classify s.scb.pend w.order = some o)
    (hcont : continueWith o w.mask (scbPending { s with moves := rest }) = .ok t) : step s = .next t := by
  rw [step_of_interrupt hm harmed hw ho, hcont]
  rfl

theorem inAddressPhase_iff {e : Engine} : inAddressPhase e = true ↔ e.state = .addrWr ∨ e.state = .addrRd := by
  simp [inAddressPhase]

theorem not_inAddressPhase_of_dataWr {e : Engine} (hstate : e.state = .dataWr) : ¬inAddressPhase e = true := by
  simp [inAddressPhase_iff, hstate]

/-- What a step of the path has done once it has read the pending sources and cleared some of them. -/
theorem scbClear_scbPending (m : Byte) (s : State) :
    scbClear m (scbPending s) =
      { s with scb := { s.scb with pend := s.scb.pend &&& ~~~m }
               trace := s.trace ++ [.scbPending s.scb.pend, .scbClear m] } := by
  simp [scbClear, scbPending, record]

/-! ### Bus faults (R144) -/

/-- The source a fault is classified by (R144). -/
def FaultKind.source : FaultKind → Source
  | .arb => .mArbLost
  | .bus => .mBusErr

theorem continueWith_faultSource (kind : FaultKind) (m : Byte) (s : State) :
    continueWith kind.source m s = .ok (faultRecover kind m .interruptPath s) := by
  cases kind <;> rfl

/-- With no source of higher priority pending, the fault is classified. -/
theorem classify_append_faults {p : Byte} {kind : FaultKind} {before : List Source} (after : List Source)
    (hbefore : ∀ x ∈ before, p.getLsbD (sourceBit x) = false) (harb : kind = .arb → p.getLsbD 2 = true)
    (hbus : kind = .bus → p.getLsbD 2 = false ∧ p.getLsbD 3 = true) :
    classify p (before ++ .mArbLost :: .mBusErr :: after) = some kind.source := by
  rw [classify_append_of_clear _ hbefore]
  cases kind with
  | arb => exact classify_cons_of_pending _ (harb rfl)
  | bus =>
    obtain ⟨hnoArb, hbusErr⟩ := hbus rfl
    exact classify_cons_of_clear hnoArb (classify_cons_of_pending _ hbusErr)

/-- Settles O36: in each row of R135 the two faults stand next to each other, behind the sources of higher priority. -/
theorem interruptPathFault : Obligations.InterruptPathFault := by
  intro s rest kind hm harmed harb hbus
  have hfault {mask : Byte} {before after : List Source}
      (hw : interruptWatch s.st = some ⟨before ++ .mArbLost :: .mBusErr :: after, mask⟩)
      (hclear : ∀ x ∈ before, s.scb.pend.getLsbD (sourceBit x) = false) :
      step s = .next (faultRecover kind mask .interruptPath (scbPending { s with moves := rest })) :=
    step_of_interrupt_ok hm harmed hw (classify_append_faults after hclear harb hbus) (continueWith_faultSource ..)
  have hanswer (hclear : s.scb.pend &&& 0x03 = 0) : ∀ x ∈ [Source.mAck, .mNack], s.scb.pend.getLsbD (sourceBit x) = false :=
    clear_of_and_orderMask hclear
  refine ⟨fun hstop hclear => ?_, fun hstop hstate hclear => ?_, fun hstop hstate hclear => ?_,
    fun hstop hstate hdsrc hclear => ?_, fun hstop hstate hdsrc hclear => ?_, fun hstop hstate hdsrc hclear => ?_⟩
  · exact hfault (before := [.mStop]) (interruptWatch_of_stopPending hstop) (List.forall_mem_singleton.mpr hclear)
  · exact hfault (before := [.mAck, .mNack]) (interruptWatch_of_addressPhase hstate hstop) (hanswer hclear)
  · exact hfault (before := [.mAck, .mNack]) (interruptWatch_of_dataWr hstate hstop) (hanswer hclear)
  all_goals
    have hw := interruptWatch_of_dataRd hstate hstop
    rw [hdsrc] at hw
    exact hfault (before := [dataSource _]) hw (List.forall_mem_singleton.mpr hclear)

/-! ### NACK (R137, R139), underflow (R140) and Stop (R143) -/

theorem continueWith_mNack_of_addressPhase {s : State} (m : Byte) (hstate : s.st.state = .addrWr ∨ s.st.state = .addrRd) :
    continueWith .mNack m s = .ok (bufferedNack maskAddr .addrNak flagErrAddrNak s) :=
  if_pos (inAddressPhase_iff.mpr hstate)

theorem continueWith_mNack_of_dataWr {s : State} (m : Byte) (hstate : s.st.state = .dataWr) :
    continueWith .mNack m s = .ok (bufferedNack (maskAddr ||| sourceMask .txUnderflow) .dataNak flagErrDataNak s) :=
  if_neg (not_inAddressPhase_of_dataWr hstate)

/-- Settles O29. -/
theorem bufferedAddressNack : Obligations.BufferedAddressNack := by
  intro s rest hm harmed hstop hstate hack hnack
  rw [step_of_interrupt_ok hm harmed (interruptWatch_of_addressPhase hstate hstop) (classify_orderAddr_nack hack hnack)
    (continueWith_mNack_of_addressPhase _ hstate), bufferedNack, scbClear_scbPending]
  rfl

/-- Settles O31. -/
theorem bufferedByteNacked : Obligations.BufferedByteNacked := by
  intro s rest hm harmed hstop hstate hack hnack
  rw [step_of_interrupt_ok hm harmed (interruptWatch_of_dataWr hstate hstop)
    (classify_cons_of_clear hack (classify_cons_of_pending _ hnack)) (continueWith_mNack_of_dataWr _ hstate), bufferedNack,
    scbClear_scbPending]
  rfl

/-- Settles O32: TX_UNDERFLOW stands behind the four master sources. -/
theorem bufferedUnderflowAlone : Obligations.BufferedUnderflowAlone := by
  intro s rest hm harmed hstop hstate hclear hpend
  have ho : classify s.scb.pend (orderAddr ++ [.txUnderflow]) = some .txUnderflow := by
    rw [classify_append_of_clear _ (clear_of_and_orderMask hclear)]
    exact classify_cons_of_pending _ hpend
  rw [step_of_interrupt_ok hm harmed (interruptWatch_of_dataWr hstate hstop) ho rfl, scbClear_scbPending]
  rfl

/-- Settles O35. -/
theorem bufferedStopCompletes : Obligations.BufferedStopCompletes := by
  intro s rest hm harmed hstop hpend
  rw [step_of_interrupt_ok hm harmed (interruptWatch_of_stopPending hstop) (classify_cons_of_pending _ hpend) rfl,
    bufferedStopDone, scbClear_scbPending, completionFlag_eq]
  rfl

/-! ### ACK (R136, R138) -/

theorem queueByte_of_read {i : Len} {s : State} {v : Byte} (h : s.mem.read (bufferAddr s.st.wr.buf i) = some v) :
    queueByte i s = .ok (scbTx v (record (.memRead (bufferAddr s.st.wr.buf i) v) s)) := by
  simp [queueByte, memRead, h]

/-- The address ACK of an empty transfer completes it (R136). -/
theorem bufferedAddrAck_of_empty {d : Dir} {s : State} (harmed : s.st.armed = armedOf d) (hlen : (s.st.desc d).len = 0) :
    bufferedAddrAck s = .ok (complete { scbClear maskAddr s with st := { s.st with state := dataState d } }) := by
  cases d with
  | write => exact (if_pos harmed).trans (if_pos hlen)
  | read =>
    have hread : ¬s.st.armed = .write := by simp [harmed, armedOf]
    exact (if_neg hread).trans (if_pos hlen)

theorem bufferedAddrAck_of_read {s : State} (harmed : s.st.armed = .read) (hlen : s.st.rd.len ≠ 0) :
    bufferedAddrAck s = .ok { scbClear maskAddr s with st := { s.st with state := .dataRd } } := by
  have hread : ¬s.st.armed = .write := by simp [harmed]
  exact (if_neg hread).trans (if_neg hlen)

/-- The address ACK of a write queues byte 0, then clears TX_UNDERFLOW (R136). -/
theorem bufferedAddrAck_of_write {s : State} {v : Byte} (harmed : s.st.armed = .write) (hlen : s.st.wr.len ≠ 0)
    (hv : s.mem.read s.st.wr.buf = some v) :
    bufferedAddrAck s = .ok (scbClear (sourceMask .txUnderflow) (scbTx v (record (.memRead s.st.wr.buf v)
      { scbClear maskAddr s with st := { s.st with state := .dataWr } }))) := by
  have hzero : bufferAddr s.st.wr.buf 0 = s.st.wr.buf := by simp [bufferAddr]
  have hqueued := queueByte_of_read (i := 0) (v := v)
    (s := { scbClear maskAddr s with st := { s.st with state := .dataWr } }) (by rw [← hzero] at hv; exact hv)
  simp only [hzero] at hqueued
  refine (if_pos harmed).trans ((if_neg hlen).trans ?_)
  split
  · next hstuck => cases hstuck.symm.trans hqueued
  · next hgoesOn => cases hgoesOn.symm.trans hqueued; rfl

theorem continueWith_mAck_of_addressPhase {s : State} (m : Byte) (hstate : s.st.state = .addrWr ∨ s.st.state = .addrRd) :
    continueWith .mAck m s = bufferedAddrAck s :=
  if_pos (inAddressPhase_iff.mpr hstate)

theorem continueWith_mAck_of_dataWr {s : State} (m : Byte) (hstate : s.st.state = .dataWr) :
    continueWith .mAck m s = bufferedByteAck s :=
  if_neg (not_inAddressPhase_of_dataWr hstate)

/-- Settles O28: M_ACK heads the list; a write or a read, empty or not. -/
theorem bufferedAddressAck : Obligations.BufferedAddressAck := by
  intro s rest hm hstop hstate hack
  have hstep {t : State} (harmed : s.st.armed ≠ .none) (ht : bufferedAddrAck (scbPending { s with moves := rest }) = .ok t) :
      step s = .next t :=
    step_of_interrupt_ok hm harmed (interruptWatch_of_addressPhase hstate hstop) (classify_cons_of_pending _ hack)
      ((continueWith_mAck_of_addressPhase (s := scbPending { s with moves := rest }) _ hstate).trans ht)
  refine ⟨fun v harmed hlen hv => ?_, fun harmed hlen => ?_, fun harmed hlen => ?_, fun harmed hlen => ?_⟩
  · rw [hstep (by simp [harmed]) (bufferedAddrAck_of_write harmed hlen hv), scbClear_scbPending]
    simp [scbClear, scbTx, record, BitVec.and_assoc, maskAddr, sourceMask, sourceBit]
  · rw [hstep (by simp [harmed]) (bufferedAddrAck_of_empty (d := .write) harmed hlen), scbClear_scbPending]
    rfl
  · rw [hstep (by simp [harmed]) (bufferedAddrAck_of_read harmed hlen), scbClear_scbPending]
    rfl
  · rw [hstep (by simp [harmed]) (bufferedAddrAck_of_empty (d := .read) harmed hlen), scbClear_scbPending]
    rfl

/-- Settles O30: the last byte is counted and completes the write, or another follows it. -/
theorem bufferedByteAcked : Obligations.BufferedByteAcked := by
  intro s rest hm harmed hstop hstate hack
  have hstep {t : State} (ht : bufferedByteAck (scbPending { s with moves := rest }) = .ok t) : step s = .next t :=
    step_of_interrupt_ok hm harmed (interruptWatch_of_dataWr hstate hstop) (classify_cons_of_pending _ hack)
      ((continueWith_mAck_of_dataWr (s := scbPending { s with moves := rest }) _ hstate).trans ht)
  refine ⟨fun hlast => ?_, fun v hmore hv => ?_⟩
  · rw [hstep (if_pos hlast), scbClear_scbPending]
    rfl
  · rw [hstep ((if_neg hmore).trans (queueByte_of_read hv)), scbClear_scbPending]
    simp [scbTx, record, bufferAddr, maskAddr, sourceMask, sourceBit]

end Sys2Proof.Machine

/-! PROOFS. The data step of a buffered read (41_buffered.md R141; 60_exceptions.md R204 item 1): the drain of the RX FIFO into the
buffer, the clear, and the ending. -/

namespace Sys2Proof.Machine

/-! ### The drain -/

/-- The trace entries of a drain of `n` bytes of the FIFO `rx`. -/
def drainActions (x : Descriptor) (rx : List Byte) (n : Nat) : List Action :=
  (List.range n).flatMap fun k =>
    [.scbRx (rx.getD k 0), .memWrite (bufferAddr x.buf (x.idx + BitVec.ofNat 16 k)) (rx.getD k 0)]

/-- The state after a drain of `n` bytes that are there, which leaves memory `m`. -/
def State.drained (n : Nat) (m : Memory) (s : State) : State :=
  { s with
    st := { s.st with rd := { s.st.rd with idx := s.st.rd.idx + BitVec.ofNat 16 n } }
    scb := { s.scb with rx := s.scb.rx.drop n }
    mem := m
    trace := s.trace ++ drainActions s.st.rd s.scb.rx n }

theorem add_ofNat_succ (i : Len) (k : Nat) : i + 1#16 + BitVec.ofNat 16 k = i + BitVec.ofNat 16 (k + 1) := by
  rw [Nat.add_comm k, BitVec.ofNat_add, BitVec.add_assoc]

theorem drainActions_cons (x : Descriptor) (b : Byte) (rx : List Byte) (n : Nat) :
    drainActions x (b :: rx) (n + 1) =
      [.scbRx b, .memWrite (bufferAddr x.buf x.idx) b] ++ drainActions { x with idx := x.idx + 1#16 } rx n := by
  simp [drainActions, List.range_succ_eq_map, List.flatMap_map, add_ofNat_succ]

theorem State.drained_drained {s : State} {b : Byte} {more : List Byte} (hrx : s.scb.rx = b :: more) (m m' : Memory) (n : Nat) :
    (s.drained 1 m).drained n m' = s.drained (n + 1) m' := by
  have hfirst : drainActions s.st.rd (b :: more) 1 = [.scbRx b, .memWrite (bufferAddr s.st.rd.buf s.st.rd.idx) b] := by
    simp [drainActions]
  simp [State.drained, hrx, hfirst, drainActions_cons, add_ofNat_succ]

/-- One round of a drain whose byte is there and whose address has memory. -/
theorem drain_succ {n : Nat} {s : State} {b : Byte} {more : List Byte} {m : Memory} (hrx : s.scb.rx = b :: more)
    (hm : s.mem.write (bufferAddr s.st.rd.buf s.st.rd.idx) b = some m) : drain (n + 1) s = drain n (s.drained 1 m) := by
  simp [drain, scbRx_of_cons hrx, memWrite, hm, State.drained, drainActions, hrx, record]

/-- A later byte of a buffer lies at another address, where the index does not wrap around (R51). -/
theorem bufferAddr_ne_add_succ (buf : Addr) {i : Len} {k : Nat} (h : i.toNat + (k + 1) < 2 ^ 16) :
    bufferAddr buf i ≠ bufferAddr buf (i + BitVec.ofNat 16 (k + 1)) := by
  have hfirst := bufferAddr_add buf (i := i) (k := 0) (by omega)
  rw [BitVec.add_zero] at hfirst
  rw [hfirst, bufferAddr_add buf h]
  bv_omega

/-- A drain of bytes that are there, to addresses that have memory, goes on and leaves each byte at its address. -/
theorem drain_of_present {n : Nat} {s : State} (hwf : s.mem.wf = true) (hn : n ≤ s.scb.rx.length)
    (hfits : s.st.rd.idx.toNat + n < 2 ^ 16)
    (hpresent : ∀ k < n, s.mem.refuses (bufferAddr s.st.rd.buf (s.st.rd.idx + BitVec.ofNat 16 k)).toNat = false) :
    ∃ m, drain n s = .ok (s.drained n m) ∧
      ∀ k < n, m.read (bufferAddr s.st.rd.buf (s.st.rd.idx + BitVec.ofNat 16 k)) = some (s.scb.rx.getD k 0) := by
  induction n generalizing s with
  | zero => exact ⟨s.mem, by simp [drain, State.drained, drainActions], by simp⟩
  | succ n ih =>
    obtain ⟨b, more, hrx⟩ := List.exists_cons_of_length_pos (Nat.lt_of_lt_of_le (Nat.succ_pos n) hn)
    obtain ⟨m, hm⟩ : ∃ m, s.mem.write (bufferAddr s.st.rd.buf s.st.rd.idx) b = some m := by
      have hfirst := hpresent 0 (Nat.succ_pos n)
      rw [BitVec.add_zero] at hfirst
      simp [Memory.write, hfirst]
    have hwf' := Memory.wf_write hwf hm
    have hrefuses (a : Nat) : m.refuses a = s.mem.refuses a := by
      rw [Memory.refuses, Memory.refuses, Memory.write_holes hm]
    have hlength : n ≤ (s.drained 1 m).scb.rx.length := by simp [State.drained]; omega
    have hfits' : (s.drained 1 m).st.rd.idx.toNat + n < 2 ^ 16 := by simp only [State.drained]; bv_omega
    obtain ⟨m', hdrain, hreads⟩ := ih (s := s.drained 1 m) hwf' hlength hfits' fun k hk => by
      have := hpresent (k + 1) (Nat.succ_lt_succ hk)
      rwa [← add_ofNat_succ, ← hrefuses] at this
    refine ⟨m', by rw [drain_succ hrx hm, hdrain, State.drained_drained hrx], fun k hk => ?_⟩
    rw [hrx]
    cases k with
    | zero =>
      rw [BitVec.add_zero]
      have hkept := drain_mem_read (b := bufferAddr s.st.rd.buf s.st.rd.idx) hwf' hdrain fun k hk => by
        have := bufferAddr_ne_add_succ s.st.rd.buf (i := s.st.rd.idx) (k := k) (by omega)
        rwa [← add_ofNat_succ] at this
      calc m'.read (bufferAddr s.st.rd.buf s.st.rd.idx)
        _ = m.read (bufferAddr s.st.rd.buf s.st.rd.idx) := hkept
        _ = some b := by rw [Memory.read_write hwf hm, if_pos rfl]
    | succ k =>
      have := hreads k (Nat.lt_of_succ_lt_succ hk)
      simpa [State.drained, hrx, add_ofNat_succ] using this

/-! ### The clear and the ending -/

/-- The mask of R135's row for the data phase of a read. -/
abbrev DataSource.readMask (src : DataSource) : Byte :=
  sourceMask (dataSource src) ||| sourceMask .mArbLost ||| sourceMask .mBusErr

/-- The mask cleared: the data source alone, or with both faults where one of them is pending beside it (R141, R204 item 1). -/
theorem readClearMask_eq {s : State} (hsource : s.st.dsrc ≠ .txUnderflow) :
    readClearMask s.st.dsrc.readMask s =
      if s.scb.pend &&& 0x0C = 0 then (if s.st.dsrc = .rxNotEmpty then 0x20 else 0x40)
      else (if s.st.dsrc = .rxNotEmpty then 0x2C else 0x4C) := by
  have hfaults (d m : Byte) (hm : m &&& ~~~d = 0x0C) : s.scb.pend &&& m &&& ~~~d = s.scb.pend &&& 0x0C := by
    rw [BitVec.and_assoc, hm]
  cases hdsrc : s.st.dsrc with
  | txUnderflow => exact absurd hdsrc hsource
  | rxNotEmpty =>
    rw [readClearMask, hdsrc, hfaults _ _ rfl]
    rfl
  | rxFull =>
    rw [readClearMask, hdsrc, hfaults _ _ rfl]
    rfl

/-- What a read step leaves pending, whichever mask it clears. -/
theorem pend_after_read {s : State} (hsource : s.st.dsrc ≠ .txUnderflow) :
    s.scb.pend &&& ~~~readClearMask s.st.dsrc.readMask s =
      s.scb.pend &&& (if s.st.dsrc = .rxNotEmpty then 0xD3 else 0xB3) := by
  cases hdsrc : s.st.dsrc with
  | txUnderflow => exact absurd hdsrc hsource
  | rxNotEmpty => exact pend_readClearMask (by rw [hdsrc]; rfl)
  | rxFull => exact pend_readClearMask (by rw [hdsrc]; rfl)

/-- The ending of a read step, by the state its clear leaves. -/
theorem afterDrain_eq (m : Byte) (n : Nat) {s u : State} (hu : scbClear (readClearMask m s) s = u) :
    afterDrain m n s =
      if n = 0 then u
      else if u.st.rd.idx = u.st.rd.len then complete u
      else { u with
        trace := u.trace ++ [.scbCmd 0x08]
        st := { u.st with
          dsrc := if remaining u.st.rd < Config.fifoDepth then .rxNotEmpty else u.st.dsrc } } := by
  simp only [afterDrain, hu]
  split
  · rfl
  · split
    · rfl
    · by_cases hfew : remaining u.st.rd < Config.fifoDepth <;> simp [hfew, scbCmd, record, cmdAck]

/-- A read step that finds memory for all its bytes: what its drain leaves, and where the bytes lie. -/
theorem bufferedReadData_of_present {n : Nat} {s : State} (m : Byte) (hn : n = min s.scb.rx.length (remaining s.st.rd))
    (hwf : s.mem.wf = true) (hidx : s.st.rd.idx ≤ s.st.rd.len)
    (hpresent : ∀ k < n, s.mem.refuses (bufferAddr s.st.rd.buf (s.st.rd.idx + BitVec.ofNat 16 k)).toNat = false) :
    ∃ mem, bufferedReadData m s = .ok (afterDrain m n ((scbRxLevel s).drained n mem)) ∧
      (∀ k < n, mem.read (bufferAddr s.st.rd.buf (s.st.rd.idx + BitVec.ofNat 16 k)) = some (s.scb.rx.getD k 0)) ∧
      ∀ b, (∀ k < n, b ≠ bufferAddr s.st.rd.buf (s.st.rd.idx + BitVec.ofNat 16 k)) → mem.read b = s.mem.read b := by
  have hlevel : n ≤ s.scb.rx.length := hn ▸ Nat.min_le_left _ _
  have hwanted : n ≤ s.st.rd.len.toNat - s.st.rd.idx.toNat := hn ▸ Nat.min_le_right _ _
  obtain ⟨mem, hdrain, hreads⟩ := drain_of_present (s := scbRxLevel s) hwf hlevel (by simp; bv_omega) hpresent
  refine ⟨mem, ?_, hreads, fun b hb => drain_mem_read (s := scbRxLevel s) hwf hdrain hb⟩
  simp only [bufferedReadData, ← hn, hdrain]

/-- What a read step has done once it has read the pending sources, drained `n` bytes and cleared (R141, R204 item 1). -/
theorem scbClear_drained {s u : State} {n : Nat} {mem : Memory} (hsource : s.st.dsrc ≠ .txUnderflow)
    (hu : u = (scbRxLevel (scbPending s)).drained n mem) :
    scbClear (readClearMask s.st.dsrc.readMask u) u =
      { s with
        st := { s.st with rd := { s.st.rd with idx := s.st.rd.idx + BitVec.ofNat 16 n } }
        scb := { s.scb with
          rx := s.scb.rx.drop n
          pend := s.scb.pend &&& (if s.st.dsrc = .rxNotEmpty then 0xD3 else 0xB3) }
        mem := mem
        trace := s.trace ++ [.scbPending s.scb.pend, .scbRxLevel s.scb.rx.length] ++ drainActions s.st.rd s.scb.rx n ++
          [.scbClear (if s.scb.pend &&& 0x0C = 0 then (if s.st.dsrc = .rxNotEmpty then 0x20 else 0x40)
            else (if s.st.dsrc = .rxNotEmpty then 0x2C else 0x4C))] } := by
  subst hu
  have hmask := readClearMask_eq (s := (scbRxLevel (scbPending s)).drained n mem) hsource
  have hleft := pend_after_read (s := (scbRxLevel (scbPending s)).drained n mem) hsource
  have hdsrc : ((scbRxLevel (scbPending s)).drained n mem).st.dsrc = s.st.dsrc := rfl
  have htrace : ((scbRxLevel (scbPending s)).drained n mem).trace =
      s.trace ++ [.scbPending s.scb.pend, .scbRxLevel s.scb.rx.length] ++ drainActions s.st.rd s.scb.rx n := by
    simp [State.drained]
  rw [hdsrc] at hmask hleft
  simp only [scbClear, record, hleft, htrace]
  rw [hmask]
  rfl

/-- Settles O33: the drain goes on, its clear leaves the same sources pending with either mask, and the ending follows. -/
theorem bufferedReadDrains : Obligations.BufferedReadDrains := by
  intro s rest n hm harmed hstop hstate hsource hpend hn hwf hidx hpresent
  obtain ⟨mem, hread, hreads, hkept⟩ := bufferedReadData_of_present (s := scbPending { s with moves := rest })
    s.st.dsrc.readMask hn hwf hidx hpresent
  have hcont := (continueWith_of_readSource hsource _ _).trans hread
  have hcleared := scbClear_drained (s := { s with moves := rest }) (n := n) (mem := mem) hsource rfl
  refine ⟨_, ?_, hcleared, hreads, hkept⟩
  rw [step_of_interrupt_ok hm harmed (interruptWatch_of_dataRd hstate hstop) (classify_cons_of_pending _ hpend) hcont,
    afterDrain_eq _ _ rfl]
  rfl

end Sys2Proof.Machine

/-! PROOFS. The ReStart generation workaround (42_restart_workaround.md R170). -/

namespace Sys2Proof.Machine

/-- The pulse leaves the clock low and the peripheral enabled and driving the pin, whatever they were (R170). -/
theorem rstwaRead_eq (s : State) :
    rstwaRead s =
      { s with
        scb := { s.scb with en := true }
        line := ⟨false, .periph⟩
        trace := s.trace ++
          [.lineWrite false, .lineSetDriveMode .gpio, .scbEnable false, .lineWrite false, .delay Config.tLowUs, .lineWrite true,
            .delay Config.tHighUs, .lineWrite false, .delay Config.tLowUs, .scbEnable true, .lineSetDriveMode .periph,
            .scbCmd cmdStart] } := by
  simp [rstwaRead, scbCmd, scbEnable, lineWrite, lineSetDriveMode, delay, record]

/-- The write branch leaves the drive mode and soft-resets the SCB once (R170). -/
theorem rstwaWrite_eq (s : State) :
    rstwaWrite s =
      { s with
        scb := softResetScb s.freeCount
        freeCount := s.freeCount + 1
        line := { s.line with level := false }
        softResets := s.softResets + 1
        trace := s.trace ++ [.lineWrite false, .scbSoftReset, .scbCmd cmdStart] } := by
  simp [rstwaWrite, scbCmd, scbSoftReset, lineWrite, record]

/-- Settles O41: in IDLE the response alone, elsewhere the direction's sequence inside the critical section. -/
theorem restartWorkaround : Obligations.RestartWorkaround := by
  intro s hop
  refine ⟨fun hidle => ?_, fun hstate hread => ?_, fun hstate hwrite => ⟨softResetScb s.freeCount, s.freeCount + 1, ?_⟩⟩
  · simp [exec, execRstwa, hidle, respond_of_op_none hop]
  · simp [exec, execRstwa, hstate, hread, respond_of_op_none, hop, rstwaRead_eq, csAcquire, csRelease, record, cmdStart]
  · simp [exec, execRstwa, hstate, hwrite, respond_of_op_none, hop, rstwaWrite_eq, csAcquire, csRelease, record, cmdStart]

end Sys2Proof.Machine

/-! PROOFS. The status and buffer accessors (43_accessors.md R180 to R185), and the answer that every command gives in every state
(R186, 60_exceptions.md R201). -/

namespace Sys2Proof.Machine

/-! ### Every command answers -/

/-- How an issue step can end: in a wait, or with a result that it gives at once, with DATA 0 (R33, R201). -/
inductive State.AnswersIssue (t : State) : Prop
  | waiting (hop : t.st.op ≠ .none)
  | ok (v : BitVec 16) (hrsp : t.rsp = ⟨.ok, 0, v⟩)
  | notReady (hrsp : t.rsp = ⟨.notReady, 0, 0⟩)
  | busBusy (hrsp : t.rsp = ⟨.busBusy, 0, 0⟩)

theorem State.AnswersIssue.result {t : State} (h : t.AnswersIssue) (hop : t.st.op = .none) :
    (∃ v, t.rsp = ⟨.ok, 0, v⟩) ∨ t.rsp = ⟨.notReady, 0, 0⟩ ∨ t.rsp = ⟨.busBusy, 0, 0⟩ := by
  cases h with
  | waiting hwait => exact absurd hop hwait
  | ok v hrsp => exact .inl ⟨v, hrsp⟩
  | notReady hrsp => exact .inr (.inl hrsp)
  | busBusy hrsp => exact .inr (.inr hrsp)

theorem queueTransfer_answersIssue (a : SlaveAddr) (d : Dir) (p : StartPolicy) (c : ComplPolicy) (s : State) :
    (queueTransfer a d p c s).AnswersIssue := by
  unfold queueTransfer
  cases qCheck s with
  | nullBuffer => exact .notReady rfl
  | illegalState => exact .notReady rfl
  | busy => exact .busBusy rfl
  | fresh => exact .ok _ rfl
  | resume => exact .ok _ rfl

/-- No meaning of a command stops. -/
theorem exec_answers (i : Instr) (s : State) : ∃ t, exec i s = .next t := by cases i <;> exact ⟨_, rfl⟩

theorem exec_answersIssue {i : Instr} {s t : State} (h : exec i s = .next t) : t.AnswersIssue := by
  cases i with
  | start a r =>
    cases h
    split
    · exact .notReady rfl
    · split
      · exact .busBusy rfl
      · exact .waiting nofun
  | restart a r =>
    cases h
    split
    · exact .waiting nofun
    · exact .notReady rfl
  | stop =>
    cases h
    split
    · cases hcode : Config.stopWhenIdleResult with
      | ok => exact .ok _ rfl
      | notReady => exact .notReady rfl
    · exact .waiting nofun
  | wrbyte d =>
    cases h
    split
    · exact .waiting nofun
    · exact .notReady rfl
  | rdbyte k =>
    cases h
    split
    · exact .waiting nofun
    · exact .notReady rfl
  | qwrite a p c => cases h; exact queueTransfer_answersIssue ..
  | qread a p c => cases h; exact queueTransfer_answersIssue ..
  | getwcnt => cases h; exact .ok _ rfl
  | getrcnt => cases h; exact .ok _ rfl
  | clrwbuf => cases h; exact .ok _ rfl
  | clrrbuf => cases h; exact .ok _ rfl
  | getstat => cases h; exact .ok _ rfl
  | clrstat => cases h; exact .ok _ rfl
  | rstwa =>
    cases h
    split
    · exact .ok _ rfl
    · split <;> exact .ok _ rfl

/-- Settles O50: the meanings are total, and each branch of an issue step waits or responds. -/
theorem everyCommandAnswers : Obligations.EveryCommandAnswers := by
  intro i s
  obtain ⟨t, ht⟩ := exec_answers i s
  exact ⟨t, ht, (exec_answersIssue ht).result⟩

/-! ### The accessors -/

/-- Settles O42. -/
theorem countAccessors : Obligations.CountAccessors := by
  intro s hop
  exact ⟨congrArg Host.Outcome.next (respond_of_op_none hop ..), congrArg Host.Outcome.next (respond_of_op_none hop ..)⟩

/-- Settles O43: an AND with the complement of the completion flag clears that flag alone. -/
theorem bufferClears : Obligations.BufferClears := by
  intro s hop
  constructor
  · simp [exec, execClrwbuf, respond_of_op_none, hop, clearFlags, flagWrCmplt]
  · simp [exec, execClrrbuf, respond_of_op_none, hop, clearFlags, flagRdCmplt]

theorem liveStatus_eq (e : Engine) : liveStatus e = e.status ||| (if e.state = .idle then 0x00 else 0x04) := by
  rw [liveStatus, ite_not]; rfl

theorem setWidth_eq_zero_append (b : Byte) : b.setWidth 16 = 0#8 ++ b := BitVec.setWidth_eq_append (by decide)

/-- Settles O44: VALUE is the status word widened by zeros, with XFER_INP for GETSTAT alone. -/
theorem statusReads : Obligations.StatusReads := by
  refine ⟨fun s hop => ?_, fun s hop => ?_, fun s t h => ?_⟩
  · simp only [exec, execGetstat, respond_of_op_none hop, setWidth_eq_zero_append, liveStatus_eq]
  · simp [exec, execClrstat, respond_of_op_none, hop, setWidth_eq_zero_append]
  · cases h
    exact ⟨_, rfl, rfl⟩

end Sys2Proof.Machine

/-! PROOFS. The soft resets of a step (60_exceptions.md R205, R206; 42_restart_workaround.md R170; 70_reset_and_hazards.md R241),
and the steps that leave RSP (R212). -/

namespace Sys2Proof.Machine

/-! ### Fault recovery -/

/-- Settles O13: the SCB is what its soft reset leaves, and one free value is taken for it (U6). -/
theorem faultRecoveryEffect : Obligations.FaultRecoveryEffect := by
  intro kind m s
  have hcode : faultCode kind = if kind = .arb then .arbitrationLost else .busError := by cases kind <;> rfl
  have hflag : faultFlag kind = if kind = .arb then 0x40 else 0x80 := by cases kind <;> rfl
  refine ⟨⟨softResetScb s.freeCount, s.freeCount + 1, ?_⟩, ⟨softResetScb s.freeCount, s.freeCount + 1, ?_⟩⟩
  · simp [faultRecover, faultReport, respond, csRelease, scbSoftReset, csAcquire, forceIdle, scbClear, record, hcode,
      MasterControl.zero]
  · simp [faultRecover, faultReport, csRelease, scbSoftReset, csAcquire, forceIdle, scbClear, record, setFlags, hflag,
      MasterControl.zero]

/-- The sources that enter fault recovery (R205). -/
def Source.IsFault (o : Source) : Prop := o = .mArbLost ∨ o = .mBusErr

theorem Source.IsFault.exists_kind {o : Source} (h : o.IsFault) : ∃ kind : FaultKind, o = kind.source := by
  rcases h with rfl | rfl
  · exact ⟨.arb, rfl⟩
  · exact ⟨.bus, rfl⟩

/-- A wait that classifies a fault ends in fault recovery, with the wait's mask (R94, R98, R100, R102). -/
theorem resolveBy_faultSource {w : Wait} {kind : FaultKind} {s t : State} (h : resolveBy w kind.source s = .next t) :
    ∃ m, t = faultRecover kind m .foreground s := by
  cases w with
  | none => cases h
  | _ => cases kind <;> cases h <;> exact ⟨_, rfl⟩

/-! ### The soft resets counted and recorded -/

/-- The soft resets that a state has counted, and those that its trace holds (R37). -/
def State.resets (s : State) : Nat × Nat := (s.softResets, s.trace.count .scbSoftReset)

@[simp] theorem addrIssue_resets (a : SlaveAddr) (r : Dir) (p : StartPolicy) (owed : Bool) (s : State) :
    (addrIssue a r p owed s).resets = s.resets := by
  cases p <;> simp [State.resets]

@[simp] theorem complete_resets (s : State) : (complete s).resets = s.resets := by
  unfold complete
  split <;> simp [State.resets]

@[simp] theorem scbRx_resets (s : State) : (scbRx s).2.resets = s.resets := by
  unfold scbRx
  split <;> simp [State.resets]

theorem queueTransfer_resets (a : SlaveAddr) (d : Dir) (p : StartPolicy) (c : ComplPolicy) (s : State) :
    (queueTransfer a d p c s).resets = s.resets := by
  unfold queueTransfer
  cases qCheck s with
  | nullBuffer => rfl
  | illegalState => rfl
  | busy => simp [State.resets]
  | fresh =>
    refine (addrIssue_resets a d p _ _).trans ?_
    simp [State.resets]
  | resume =>
    refine (addrIssue_resets a d p _ _).trans ?_
    simp [State.resets]

/-- No command but RSTWA outside IDLE in a write resets the SCB. -/
theorem exec_resets {i : Instr} {s t : State} (hrstwa : i = .rstwa → s.st.state ≠ .idle → s.st.dir ≠ .write)
    (h : exec i s = .next t) : t.resets = s.resets := by
  cases i with
  | start a r =>
    cases h
    split
    · rfl
    · split
      · simp [State.resets]
      · refine (addrIssue_resets a r .start _ _).trans ?_
        simp [State.resets]
  | restart a r =>
    cases h
    split
    · exact addrIssue_resets a r .restart _ (enterAddressPhase r s)
    · rfl
  | stop => cases h; split <;> simp [State.resets, beginWait]
  | wrbyte d => cases h; split <;> simp [State.resets, beginWait]
  | rdbyte k => cases h; split <;> rfl
  | qwrite a p c => cases h; exact queueTransfer_resets ..
  | qread a p c => cases h; exact queueTransfer_resets ..
  | getwcnt => cases h; rfl
  | getrcnt => cases h; rfl
  | clrwbuf => cases h; rfl
  | clrrbuf => cases h; rfl
  | getstat => cases h; rfl
  | clrstat => cases h; rfl
  | rstwa =>
    cases h
    split
    · rfl
    · next hstate =>
      split
      · simp [State.resets, rstwaRead_eq]
      · next hwrite => exact absurd hwrite (hrstwa rfl hstate)

theorem resolveBy_resets {w : Wait} {o : Source} {s t : State} (ho : ¬o.IsFault) (h : resolveBy w o s = .next t) :
    t.resets = s.resets := by
  cases w with
  | none => cases h
  | addr =>
    cases o <;> cases h
    · simp [State.resets]
    · simp [State.resets, haltWith]
    · exact absurd (.inl rfl) ho
    · exact absurd (.inr rfl) ho
  | wr =>
    cases o <;> cases h
    · simp [State.resets, haltWith]
    · simp [State.resets, haltWith]
    · exact absurd (.inl rfl) ho
    · exact absurd (.inr rfl) ho
  | rd k =>
    cases o <;> cases h
    · exact absurd (.inl rfl) ho
    · exact absurd (.inr rfl) ho
    · rw [← scbRx_resets s]
      cases k <;> simp [State.resets, answerByte, haltWith]
  | stop =>
    cases o <;> cases h
    · exact absurd (.inl rfl) ho
    · exact absurd (.inr rfl) ho
    · simp [State.resets]

/-! ### The interrupt path -/

/-- RSP, the soft resets counted and those in the trace: what the interrupt path writes in fault recovery at most. -/
def State.report (s : State) : Response × Nat × Nat := (s.rsp, s.resets)

@[simp] theorem complete_report (s : State) : (complete s).report = s.report := by
  simp [State.report]

theorem queueByte_report {i : Len} {s t : State} (h : queueByte i s = .ok t) : t.report = s.report := by
  obtain ⟨v, -, rfl⟩ := queueByte_ok h
  simp [State.report, State.resets]

theorem scbClear_report (m : Byte) (s : State) : (scbClear m s).report = s.report := by
  simp [State.report, State.resets]

theorem bufferedAddrAck_report {s t : State} (h : bufferedAddrAck s = .ok t) : t.report = s.report := by
  rw [← scbClear_report maskAddr s]
  simp only [bufferedAddrAck] at h
  split at h
  · split at h
    · cases h
      exact complete_report _
    · split at h <;> cases h
      next hqueued => exact (scbClear_report _ _).trans (queueByte_report hqueued :)
  · split at h <;> cases h
    · exact complete_report _
    · rfl

theorem bufferedByteAck_report {s t : State} (h : bufferedByteAck s = .ok t) : t.report = s.report := by
  rw [← scbClear_report (maskAddr ||| sourceMask .txUnderflow) s]
  simp only [bufferedByteAck] at h
  split at h
  · cases h
    exact complete_report _
  · exact (queueByte_report h :)

theorem drain_report {n : Nat} {s t : State} (h : drain n s = .ok t) : t.report = s.report := by
  induction n generalizing s with
  | zero => cases h; rfl
  | succ n ih =>
    simp only [drain] at h
    split at h
    · cases h
    · next hwritten =>
      obtain ⟨m, -, rfl⟩ := memWrite_ok hwritten
      rw [ih h, State.report, State.report, ← scbRx_rsp s, ← scbRx_resets s]
      simp [State.resets]

theorem afterDrain_report (m : Byte) (n : Nat) (s : State) : (afterDrain m n s).report = s.report := by
  rw [← scbClear_report (readClearMask m s) s]
  simp only [afterDrain]
  split
  · rfl
  · split
    · exact complete_report _
    · split <;> simp [State.report, State.resets]

theorem bufferedReadData_report {m : Byte} {s t : State} (h : bufferedReadData m s = .ok t) : t.report = s.report := by
  obtain ⟨n, u, -, hdrain, rfl⟩ := bufferedReadData_ok h
  rw [afterDrain_report, drain_report hdrain]
  simp [State.report, State.resets]

/-- Every continuation but fault recovery. -/
theorem continueWith_report {o : Source} {m : Byte} {s t : State} (ho : ¬o.IsFault) (h : continueWith o m s = .ok t) :
    t.report = s.report := by
  cases o with
  | mAck =>
    simp only [continueWith] at h
    split at h
    · exact bufferedAddrAck_report h
    · exact bufferedByteAck_report h
  | mNack =>
    simp only [continueWith] at h
    split at h <;> cases h <;> exact scbClear_report ..
  | mArbLost => exact absurd (.inl rfl) ho
  | mBusErr => exact absurd (.inr rfl) ho
  | mStop => cases h; exact scbClear_report ..
  | rxNotEmpty => exact bufferedReadData_report h
  | rxFull => exact bufferedReadData_report h
  | txUnderflow => cases h; exact scbClear_report ..

/-- The interrupt path leaves RSP, in fault recovery too (R206, R212). -/
theorem continueWith_rsp {o : Source} {m : Byte} {s t : State} (h : continueWith o m s = .ok t) : t.rsp = s.rsp := by
  by_cases ho : o.IsFault
  · obtain ⟨kind, rfl⟩ := ho.exists_kind
    rw [continueWith_faultSource] at h
    cases h
    obtain ⟨-, hrsp, -⟩ := faultRecover_fields kind m .interruptPath s
    exact hrsp
  · exact congrArg Prod.fst (continueWith_report ho h)

/-- Settles O54: the interrupt path, the environment and the host's other accesses write no RSP. -/
theorem onlyForegroundWritesRsp : Obligations.OnlyForegroundWritesRsp := by
  intro s t m rest hm h hcmd hresolve hinit
  rw [step_of_moves hm] at h
  cases m with
  | hostWrite offset width v =>
    rcases hostWriteStep_next h with ⟨rfl, rfl, -⟩ | rfl | rfl | rfl
    · exact absurd rfl (hcmd v)
    · rfl
    · rfl
    · rfl
  | hostRead offset width =>
    simp only [runMove, hostReadStep] at h
    split at h <;> cases h
    rfl
  | callerStore a v =>
    simp only [runMove, callerStoreStep] at h
    split at h <;> cases h
    rfl
  | resolve => exact absurd rfl hresolve
  | interrupt =>
    obtain ⟨c, -, hcont⟩ := interruptStep_next h
    exact (continueWith_rsp hcont :)
  | env e =>
    obtain ⟨scb, rfl, -⟩ := envStep_next h
    rfl
  | driverInit => exact absurd rfl hinit

/-! ### Every agent's step -/

/-- A step that neither enters fault recovery nor runs RSTWA's write branch counts and records no soft reset. -/
theorem runMove_resets {m : Move} {s t : State} (hinit : m ≠ .driverInit) (hfault : ¬s.EntersFault m)
    (hworkaround : ¬s.EntersWriteWorkaround m) (h : runMove m s = .next t) : t.resets = s.resets := by
  cases m with
  | hostWrite offset width v =>
    rcases hostWriteStep_next h with ⟨rfl, rfl, hcmd⟩ | rfl | rfl | rfl
    · obtain ⟨-, i, hi, hexec⟩ := commandWrite_next hcmd
      refine exec_resets (fun hrstwa hstate hwrite => hworkaround ⟨?_, hstate, hwrite⟩) hexec
      rw [← encodeOfDecode v i hi, hrstwa]
      rfl
    · rfl
    · rfl
    · rfl
  | hostRead offset width =>
    simp only [runMove, hostReadStep] at h
    split at h <;> cases h
    rfl
  | callerStore a v =>
    simp only [runMove, callerStoreStep] at h
    split at h <;> cases h
    rfl
  | resolve =>
    obtain ⟨o, ho, hby⟩ := resolveStep_next h
    rw [resolveBy_resets (fun hkind => hfault ⟨o, ho, hkind⟩) hby]
    simp [State.resets, endWait]
  | interrupt =>
    obtain ⟨c, hc, hcont⟩ := interruptStep_next h
    have hreport := continueWith_report (fun hkind => hfault ⟨c, hc, hkind⟩) hcont
    refine (congrArg Prod.snd hreport).trans ?_
    simp [State.report, State.resets]
  | env e =>
    obtain ⟨scb, rfl, -⟩ := envStep_next h
    rfl
  | driverInit => exact absurd rfl hinit

/-- A step that classifies a fault reads the pending sources and ends in fault recovery (R205). -/
theorem runMove_of_entersFault {m : Move} {s t : State} (hfault : s.EntersFault m) (h : runMove m s = .next t) :
    ∃ kind mask who u, t = faultRecover kind mask who u ∧ u.softResets = s.softResets ∧
      u.trace = s.trace ++ [.scbPending s.scb.pend] ∧ u.st.wr = s.st.wr ∧ u.st.rd = s.st.rd ∧ u.st.dir = s.st.dir := by
  cases m with
  | resolve =>
    obtain ⟨o, ho, hby⟩ := resolveStep_next h
    obtain ⟨o', ho', hkind⟩ := hfault
    cases ho.symm.trans ho'
    obtain ⟨kind, rfl⟩ := Source.IsFault.exists_kind hkind
    obtain ⟨mask, rfl⟩ := resolveBy_faultSource hby
    exact ⟨kind, mask, .foreground, _, rfl, rfl, rfl, rfl, rfl, rfl⟩
  | interrupt =>
    obtain ⟨⟨o, mask⟩, hc, hcont⟩ := interruptStep_next h
    obtain ⟨c', hc', hkind⟩ := hfault
    cases hc.symm.trans hc'
    obtain ⟨kind, rfl⟩ := Source.IsFault.exists_kind hkind
    rw [continueWith_faultSource] at hcont
    cases hcont
    exact ⟨kind, mask, .interruptPath, _, rfl, rfl, rfl, rfl, rfl, rfl⟩
  | hostWrite => cases hfault
  | hostRead => cases hfault
  | callerStore => cases hfault
  | env => cases hfault
  | driverInit => cases hfault

/-- The CMD write of RSTWA runs it when it goes on, since it finds BUSY 0 (R34, R74). -/
theorem exec_rstwa_of_commandWrite {s t : State} (h : commandWrite 0x0000000E s = .next t) :
    s.st.op = .none ∧ exec .rstwa s = .next t := by
  obtain ⟨hop, i, hi, hexec⟩ := commandWrite_next h
  cases hi.symm.trans (decodeOfEncode .rstwa rfl)
  exact ⟨hop, hexec⟩

/-- What a step classifies does not depend on the moves to come after it. -/
theorem entersFault_withMoves {s : State} {m : Move} {moves : List Move} :
    ({ s with moves := moves } : State).EntersFault m ↔ s.EntersFault m := by
  cases m <;> rfl

/-- Settles O55: fault recovery, RSTWA's write branch, and the steps that `runMove_resets` is about. -/
theorem softResetsAreCounted : Obligations.SoftResetsAreCounted := by
  intro s t m rest hm hinit h
  rw [step_of_moves hm] at h
  by_cases hfault : s.EntersFault m
  · obtain ⟨kind, mask, who, u, rfl, hcount, htrace, hwr, hrd, hdir⟩ :=
      runMove_of_entersFault (entersFault_withMoves.mpr hfault) h
    obtain ⟨hst, -, -, htrace', hcount', -⟩ := faultRecover_fields kind mask who u
    refine .inr (.inl ⟨hfault, by rw [hcount', hcount], ⟨mask, by rw [htrace', htrace, List.append_assoc]; rfl⟩, ?_⟩)
    rw [hst]
    exact ⟨rfl, rfl, rfl, hwr, hrd, hdir⟩
  · by_cases hworkaround : s.EntersWriteWorkaround m
    · obtain ⟨rfl, hstate, hwrite⟩ := hworkaround
      obtain ⟨hop, hexec⟩ := exec_rstwa_of_commandWrite h
      obtain ⟨-, -, hwriteBranch⟩ := restartWorkaround { s with moves := rest } hop
      obtain ⟨scb, n, hrstwa⟩ := hwriteBranch hstate hwrite
      cases hexec.symm.trans hrstwa
      exact .inr (.inr ⟨⟨rfl, hstate, hwrite⟩, rfl, rfl, rfl⟩)
    · obtain ⟨new, htrace, -⟩ := runMove_appends hinit h
      have hresets := runMove_resets (s := { s with moves := rest }) hinit (entersFault_withMoves.not.mpr hfault) hworkaround h
      obtain ⟨hcount, hrecorded⟩ := Prod.mk.inj hresets
      rw [htrace, List.count_append, Nat.add_eq_left, List.count_eq_zero] at hrecorded
      exact .inl ⟨hfault, hworkaround, hcount, new, htrace, hrecorded⟩

end Sys2Proof.Machine

/-! PROOFS. The sources a classification does not choose (60_exceptions.md R204; 93_implementation_defined.md U7):
a step that enters no fault recovery clears every source of the order it watched (40_sequencer.md R93, 41_buffered.md R135). -/

namespace Sys2Proof.Machine

/-! ### Cleared sources -/

/-- No source of the mask is pending. -/
def State.Cleared (m : Byte) (s : State) : Prop := s.scb.pend &&& m = 0

theorem and_not_and_self (p m : Byte) : p &&& ~~~m &&& m = 0 := by
  rw [BitVec.and_assoc, BitVec.and_comm (~~~m), BitVec.and_not_self]
  exact BitVec.and_zero

theorem scbClear_cleared (m : Byte) (s : State) : (scbClear m s).Cleared m := and_not_and_self _ m

/-- A further clear leaves what is cleared. -/
theorem State.Cleared.scbClear {m : Byte} {s : State} (h : s.Cleared m) (m' : Byte) : (scbClear m' s).Cleared m := by
  rw [Cleared, scbClear_scb, BitVec.and_assoc, BitVec.and_comm (~~~m'), ← BitVec.and_assoc, h]
  exact BitVec.zero_and

theorem State.Cleared.complete {m : Byte} {s : State} (h : s.Cleared m) : (complete s).Cleared m := by
  rwa [Cleared, complete_scb]

theorem queueByte_cleared {m : Byte} {i : Len} {s t : State} (h : queueByte i s = .ok t) (hs : s.Cleared m) :
    t.Cleared m := by
  obtain ⟨v, -, rfl⟩ := queueByte_ok h
  exact hs

/-! ### The foreground -/

/-- A wait that classifies no fault clears the sources of its order (R93). -/
theorem resolveBy_cleared {w : Wait} {o : Source} {s t : State} (ho : ¬o.IsFault) (h : resolveBy w o s = .next t) :
    t.Cleared (orderMask (waitOrder w)) := by
  cases w with
  | none => cases h
  | addr =>
    cases o <;> cases h
    · exact scbClear_cleared maskAddr s
    · exact scbClear_cleared maskAddr s
    · exact absurd (.inl rfl) ho
    · exact absurd (.inr rfl) ho
  | wr =>
    cases o <;> cases h
    · exact scbClear_cleared maskAddr s
    · exact scbClear_cleared maskAddr s
    · exact absurd (.inl rfl) ho
    · exact absurd (.inr rfl) ho
  | rd k =>
    cases o <;> cases h
    · exact absurd (.inl rfl) ho
    · exact absurd (.inr rfl) ho
    · cases k <;> exact scbClear_cleared maskRd (scbRx s).2
  | stop =>
    cases o <;> cases h
    · exact absurd (.inl rfl) ho
    · exact absurd (.inr rfl) ho
    · exact scbClear_cleared maskStop s

/-! ### The interrupt path -/

theorem bufferedAddrAck_cleared {s t : State} (h : bufferedAddrAck s = .ok t) : t.Cleared maskAddr := by
  have hclear := scbClear_cleared maskAddr s
  simp only [bufferedAddrAck] at h
  split at h
  · split at h
    · cases h
      exact State.Cleared.complete hclear
    · split at h <;> cases h
      next hqueued => exact (queueByte_cleared hqueued hclear).scbClear _
  · split at h <;> cases h
    · exact State.Cleared.complete hclear
    · exact hclear

theorem bufferedByteAck_cleared {s t : State} (h : bufferedByteAck s = .ok t) :
    t.Cleared (maskAddr ||| sourceMask .txUnderflow) := by
  have hclear := scbClear_cleared (maskAddr ||| sourceMask .txUnderflow) s
  simp only [bufferedByteAck] at h
  split at h
  · cases h
    exact State.Cleared.complete hclear
  · exact queueByte_cleared h hclear

theorem afterDrain_cleared {m : Byte} (n : Nat) {s : State} (h : (scbClear (readClearMask m s) s).Cleared m) :
    (afterDrain m n s).Cleared m := by
  simp only [afterDrain]
  split
  · exact h
  · split
    · exact h.complete
    · split <;> exact h

/-- The data step of a read clears its row: where it clears its data source alone, no fault was pending (R204 item 1; log 25). -/
theorem bufferedReadData_cleared {s t : State} (h : bufferedReadData s.st.dsrc.readMask s = .ok t) :
    t.Cleared s.st.dsrc.readMask := by
  obtain ⟨n, u, -, hdrain, rfl⟩ := bufferedReadData_ok h
  obtain ⟨hst, -⟩ := drain_ok hdrain
  have hdsrc : s.st.dsrc = u.st.dsrc := by rw [hst]; rfl
  have hwatched : sourceMask (dataSource u.st.dsrc) &&& u.st.dsrc.readMask = sourceMask (dataSource u.st.dsrc) := by
    cases u.st.dsrc <;> rfl
  rw [hdsrc]
  refine afterDrain_cleared n ?_
  rw [State.Cleared, scbClear_scb, pend_readClearMask hwatched]
  exact and_not_and_self ..

/-- Classification goes on to the second list when nothing of the first is pending (R14). -/
theorem classify_append (p : Byte) (order order' : List Source) :
    classify p (order ++ order') = (classify p order).or (classify p order') := by
  simp only [classify_eq_find?, List.find?_append]

/-- TX_UNDERFLOW is classified only where no master source is pending (R140). -/
theorem and_maskAddr_of_classify_txUnderflow {p : Byte} (h : classify p (orderAddr ++ [.txUnderflow]) = some .txUnderflow) :
    p &&& maskAddr = 0 := by
  rw [classify_append] at h
  cases ho : classify p orderAddr with
  | none => exact classify_eq_none_iff_mask.mp ho
  | some o =>
    rw [ho] at h
    cases h
    exact absurd (classify_mem ho) (by decide)

/-- In the address phase M_ACK and M_NACK clear MASK_ADDR (R136, R137). -/
theorem continueWith_cleared_of_addressPhase {o : Source} {m : Byte} {s t : State}
    (hstate : s.st.state = .addrWr ∨ s.st.state = .addrRd) (hmem : o ∈ orderAddr) (ho : ¬o.IsFault)
    (h : continueWith o m s = .ok t) : t.Cleared maskAddr := by
  cases o with
  | mAck =>
    rw [continueWith_mAck_of_addressPhase _ hstate] at h
    exact bufferedAddrAck_cleared h
  | mNack =>
    rw [continueWith_mNack_of_addressPhase _ hstate] at h
    cases h
    exact scbClear_cleared maskAddr s
  | mArbLost => exact absurd (.inl rfl) ho
  | mBusErr => exact absurd (.inr rfl) ho
  | _ => simp [orderAddr] at hmem

/-- In the data phase of a write M_ACK and M_NACK clear their row, and TX_UNDERFLOW is the only one left of it (R138 to R140). -/
theorem continueWith_cleared_of_dataWr {o : Source} {m : Byte} {s t : State} (hstate : s.st.state = .dataWr)
    (hclass : classify s.scb.pend (orderAddr ++ [.txUnderflow]) = some o) (ho : ¬o.IsFault)
    (h : continueWith o m s = .ok t) : t.Cleared (maskAddr ||| sourceMask .txUnderflow) := by
  cases o with
  | mAck =>
    rw [continueWith_mAck_of_dataWr _ hstate] at h
    exact bufferedByteAck_cleared h
  | mNack =>
    rw [continueWith_mNack_of_dataWr _ hstate] at h
    cases h
    exact scbClear_cleared (maskAddr ||| sourceMask .txUnderflow) s
  | txUnderflow =>
    cases h
    have haddr : s.Cleared maskAddr := and_maskAddr_of_classify_txUnderflow hclass
    rw [State.Cleared, BitVec.and_or_distrib_left]
    exact BitVec.or_eq_zero_iff.mpr ⟨haddr.scbClear _, scbClear_cleared ..⟩
  | mArbLost => exact absurd (.inl rfl) ho
  | mBusErr => exact absurd (.inr rfl) ho
  | _ => exact absurd (classify_mem hclass) (by decide)

/-- In the data phase of a read the data source clears its row (R141). -/
theorem continueWith_cleared_of_dataRd {o : Source} {s t : State} (hsource : s.st.dsrc ≠ .txUnderflow)
    (hmem : o ∈ [dataSource s.st.dsrc, .mArbLost, .mBusErr]) (ho : ¬o.IsFault)
    (h : continueWith o s.st.dsrc.readMask s = .ok t) : t.Cleared s.st.dsrc.readMask := by
  rcases List.mem_cons.mp hmem with rfl | hfault
  · rw [continueWith_of_readSource hsource] at h
    exact bufferedReadData_cleared h
  · exact absurd (by simpa [Source.IsFault] using hfault) ho

/-- Once the Stop is issued M_STOP clears MASK_STOP (R143). -/
theorem continueWith_cleared_of_stopPhase {o : Source} {m : Byte} {s t : State} (hmem : o ∈ orderStop) (ho : ¬o.IsFault)
    (h : continueWith o m s = .ok t) : t.Cleared maskStop := by
  rcases List.mem_cons.mp hmem with rfl | hfault
  · cases h
    exact scbClear_cleared maskStop s
  · exact absurd (by simpa [Source.IsFault] using hfault) ho

/-- A step of the interrupt path that classifies no fault clears its row (R135). -/
theorem continueWith_cleared {w : Watch} {o : Source} {s t : State}
    (hsource : s.st.state = .dataRd → s.st.dsrc ≠ .txUnderflow) (hw : interruptWatch s.st = some w)
    (hclass : classify s.scb.pend w.order = some o) (ho : ¬o.IsFault) (h : continueWith o w.mask s = .ok t) :
    t.Cleared w.mask := by
  have hmem := classify_mem hclass
  rw [interruptWatch] at hw
  split at hw
  · cases hw
    exact continueWith_cleared_of_stopPhase hmem ho h
  · cases hstate : s.st.state <;> rw [hstate] at hw <;> cases hw
    · exact continueWith_cleared_of_addressPhase (.inl hstate) hmem ho h
    · exact continueWith_cleared_of_addressPhase (.inr hstate) hmem ho h
    · exact continueWith_cleared_of_dataWr hstate hclass ho h
    · exact continueWith_cleared_of_dataRd (hsource hstate) hmem ho h

/-- Under the invariant an armed engine in the data phase of a read has a read source (R40 item 4; log 22). -/
theorem State.Inv.dsrc_ne_txUnderflow {s : State} (hs : s.Inv) (harmed : s.st.armed ≠ .none) (hstate : s.st.state = .dataRd) :
    s.st.dsrc ≠ .txUnderflow := by
  obtain ⟨-, hread⟩ := hs.armedSource
  cases hkind : s.st.armed with
  | none => exact absurd hkind harmed
  | write => simpa [hstate] using hs.armedWrite hkind
  | read => exact hread hkind

/-- Settles O59: a resolve step clears its wait's mask, an interrupt step its row's. -/
theorem unchosenSourcesAreLost : Obligations.UnchosenSourcesAreLost := by
  intro s t rest h
  refine ⟨fun hm hfault => ?_, fun hs hm hfault w hw => ?_⟩
  · rw [step_of_moves hm] at h
    obtain ⟨o, ho, hby⟩ := resolveStep_next h
    exact clear_of_and_orderMask (resolveBy_cleared (fun hkind => hfault ⟨o, ho, hkind⟩) hby)
  · rw [step_of_moves hm] at h
    obtain ⟨⟨o, m⟩, hc, hcont⟩ := interruptStep_next h
    obtain ⟨harmed, w', hw', ho, rfl⟩ := interruptSource_some hc
    cases hw.symm.trans hw'
    have hcleared : t.Cleared w.mask :=
      continueWith_cleared (s := scbPending { s with moves := rest }) (hs.dsrc_ne_txUnderflow harmed) hw ho
        (fun hkind => hfault ⟨(o, w.mask), hc, hkind⟩) hcont
    rw [State.Cleared, interruptWatch_mask hw] at hcleared
    exact clear_of_and_orderMask hcleared

end Sys2Proof.Machine

/-! PROOFS. The hazards at the host's side (70_reset_and_hazards.md R245, R248 to R250, R252): the guards of the transfer commands
under an armed transfer, CLRWBUF and STOP over one, a stale source, and the end of a run. -/

namespace Sys2Proof.Machine

/-! ### A quiescent engine (R252) -/

/-- With nothing armed the interrupt path has no step (R135). -/
theorem step_of_interrupt_disarmed {s : State} {rest : List Move} (hm : s.moves = .interrupt :: rest)
    (harmed : s.st.armed = .none) : step s = .fault (.noStep .interruptPath) := by
  rw [step_of_moves hm]
  exact interruptStep_eq_noStep_iff.mpr (if_pos harmed)

/-- Settles O49: no wait watches no source, and the path has no step with nothing armed. -/
theorem quiescentHasNoEngineStep : Obligations.QuiescentHasNoEngineStep := by
  rintro s rest ⟨hop, harmed⟩
  refine ⟨fun hm => ?_, fun hm => step_of_interrupt_disarmed hm harmed⟩
  exact step_of_resolve_disabled 0 hm hop (List.forall_mem_nil _) BitVec.and_zero

/-! ### The transfer commands under an armed transfer (R249, R212) -/

/-- An armed transfer is in its address phase or in its data phase (R40 item 4). -/
theorem Engine.ArmedFor.inPhase {d : Dir} {e : Engine} (h : e.ArmedFor d) : e.state ≠ .idle ∧ e.state ≠ .halted := by
  rcases h.state with hstate | hstate <;> rw [hstate] <;> cases d <;> decide

/-- Within a phase both of the guard's refusals, the null buffer and the state, answer NotReady (R131). -/
theorem queueTransfer_notReady_of_inPhase (a : SlaveAddr) (d : Dir) (p : StartPolicy) (h : ComplPolicy) {s : State}
    (hop : s.st.op = .none) (hidle : s.st.state ≠ .idle) (hhalted : s.st.state ≠ .halted) :
    queueTransfer a d p h s = { s with rsp := ⟨.notReady, 0, 0⟩ } := by
  by_cases hbuf : s.argBuf = 0
  · exact queueTransfer_of_argBuf_zero a d p h hop hbuf
  · exact queueTransfer_of_phase a d p h hop hbuf hidle hhalted

/-- Settles O37: START, QWRITE and QREAD are refused for the phase, RESTART, WRBYTE and RDBYTE for the arming. -/
theorem armedEngineRefusesTransactions : Obligations.ArmedEngineRefusesTransactions := by
  intro s i hs harmed hi
  obtain ⟨d, hd⟩ := hs.sound.armedFor harmed
  obtain ⟨hidle, hhalted⟩ := hd.inPhase
  rcases hi with ⟨a, r, rfl⟩ | ⟨a, r, rfl⟩ | ⟨b, rfl⟩ | ⟨k, rfl⟩ | ⟨a, p, h, rfl⟩ | ⟨a, p, h, rfl⟩
  · exact (startIssue a r s hd.op).1 hidle
  · exact (restartIssue a r s hd.op).1 (.inl harmed)
  · exact (writeByteIssue b s hd.op).2 (.inl harmed)
  · exact (readByteIssue k s hd.op).2 (.inl harmed)
  · exact congrArg Host.Outcome.next (queueTransfer_notReady_of_inPhase a .write p h hd.op hidle hhalted)
  · exact congrArg Host.Outcome.next (queueTransfer_notReady_of_inPhase a .read p h hd.op hidle hhalted)

/-! ### CLRWBUF and STOP over a buffered transfer (R245, R250) -/

/-- Settles O38: CLRWBUF leaves index 0, so the ACK counts byte 0 and, the length being above 1, queues byte 1 (R138). -/
theorem clearUnderRunningWrite : Obligations.ClearUnderRunningWrite := by
  intro s t v harmed hstate hstop hlen hv h
  have hpend : (0x01 : Byte).getLsbD 0 = true := by decide
  have hstep := bufferedByteAcked { t with moves := [.interrupt], scb := { t.scb with pend := 0x01 } } [] rfl
  cases h
  obtain ⟨-, hqueues⟩ := hstep (by simp [harmed]) hstop hstate hpend
  have hmore : (0 : Len) + 1 ≠ s.st.wr.len := fun hlast => BitVec.lt_irrefl _ (hlast ▸ hlen)
  exact ⟨_, hqueues v hmore hv, rfl, rfl, hstate⟩

/-- Settles O39: STOP's issue step disarms (R97), and its resolve step touches neither descriptor nor the status (R98). -/
theorem stopOverBufferedTransfer : Obligations.StopOverBufferedTransfer := by
  intro s t hop _ hstate h
  have hpend : (0x10 : Byte).getLsbD 4 = true := by decide
  have hresolve := stopResolve { t with moves := [.resolve], scb := { t.scb with pend := 0x10 } } [] rfl
  obtain ⟨-, hissue⟩ := stopIssue s hop
  cases h.symm.trans (hissue hstate)
  obtain ⟨hstopped, -⟩ := hresolve rfl
  exact ⟨rfl, rfl, rfl, rfl, rfl, step_of_interrupt_disarmed rfl rfl, _, hstopped hpend, rfl, rfl, rfl, rfl, rfl⟩

/-! ### A stale source (R248) -/

/-- Settles O40: START clears no source (R95), and M_ACK heads the list of the address phase (R94). -/
theorem staleAckIsTaken : Obligations.StaleAckIsTaken := by
  intro s t a r hop hidle hfree hack h
  have hresolve := addressResolve { t with moves := [.resolve] } [] rfl
  obtain ⟨-, -, hissue⟩ := startIssue a r s hop
  cases h.symm.trans (hissue hidle hfree)
  obtain ⟨hacked, -⟩ := hresolve rfl
  exact ⟨_, hacked hack, rfl, rfl⟩

end Sys2Proof.Machine
